-- ==== Sys2Proof/Word.lean ====
section
/-! DEFINITION. The word types of the host port and of the registers (00_scope.md R7, R13; 30_encoding.md R61). -/

namespace Sys2Proof

/-- One byte of a packet or of an 8-bit register (R13). -/
abbrev Byte := BitVec 8

/-- One 16-bit character element of a string buffer, `CU_W` of R7 (R15, R27). -/
abbrev CodeUnit := BitVec 16

/-- The 64-bit data word of a host access, `DATA_W` of R7. -/
abbrev Word := BitVec 64

/-- A 12-bit host register address, `ADDR_W` of R7. -/
abbrev HostAddr := BitVec 12

/-- A host transaction word in the format HOSTTX77 (R61). -/
abbrev HostTx := BitVec 77

/-- `zext_64(v)` of R13: what a read returns of a register of any width (R42). -/
abbrev zext64 {w : Nat} (v : BitVec w) : Word := v.setWidth 64

end Sys2Proof
end

