-- ==== Sys2Proof/Config.lean ====
section
/-! DEFINITION. The fixed sizes and protocol constants (00_scope.md R7, R8), the synthesis parameters (R9 to R12), and the one free value, NONFINITE_I16 (R11). -/

namespace Sys2Proof

/-- `ROUND_TIES`: how a value exactly halfway between two integers is rounded (R10). -/
inductive RoundTies where
  | even
  | away
  deriving DecidableEq, Repr

/-- The kinds of non-finite scaled value that NONFINITE_I16 is indexed by (R11, R89). -/
inductive NonFinite where
  | nan
  | posInf
  | negInf
  deriving DecidableEq, Repr

/-- The synthesis-time parameters of R9 to R12; the spec has no others (R3). A statement about every
state is a statement about every value of these. -/
structure Params where
  /-- `PKTID_SETBLOCK` (R9). -/
  pktidSetBlock : Byte
  /-- `PKTID_POSITION` (R9). -/
  pktidPosition : Byte
  /-- `PKTID_MESSAGE` (R9). -/
  pktidMessage : Byte
  /-- `ROUND_TIES` (R10). -/
  roundTies : RoundTies
  /-- `NONASCII_BYTE` (R12). -/
  nonasciiByte : Byte
  /-- `NONFINITE_I16(NaN)` (R11). -/
  nonfiniteNaN : BitVec 16
  /-- `NONFINITE_I16(+Inf)` (R11). -/
  nonfinitePosInf : BitVec 16
  /-- `NONFINITE_I16(-Inf)` (R11). -/
  nonfiniteNegInf : BitVec 16
  deriving DecidableEq, Repr

/-- The free value of the spec: the 16-bit field for a scaled value that is not finite (R11, OPEN;
log entry 4). It has no body, so nothing can be proved of it. -/
opaque Config.nonfiniteI16 : NonFinite → BitVec 16

/-- The parameters at `State.reset`: the spec's defaults (R9, R10, R12), and the free value for
NONFINITE_I16 (log entries 3 and 4). -/
def Params.default : Params where
  pktidSetBlock := 0x05#8
  pktidPosition := 0x08#8
  pktidMessage := 0x0D#8
  roundTies := .even
  nonasciiByte := 0x3F#8
  nonfiniteNaN := Config.nonfiniteI16 .nan
  nonfinitePosInf := Config.nonfiniteI16 .posInf
  nonfiniteNegInf := Config.nonfiniteI16 .negInf

/-- `STR_CAP`: code units per string buffer (R7). -/
abbrev Config.strCap : Nat := 64

/-- `OUT_CAP`: bytes of the output buffer (R7). -/
abbrev Config.outCap : Nat := 131

/-- The text slot width `W` (R8). -/
abbrev Config.slotWidth : Nat := 64

/-- The pad byte `PAD`, the ASCII space (R8). -/
abbrev Config.padByte : Byte := 0x20#8

/-- The protocol version `PROTO_VER` (R8). -/
abbrev Config.protoVer : Byte := 0x07#8

/-- The login packet ID (R8). -/
abbrev Config.pktidLogin : Byte := 0x00#8

/-- The login packet's trailing reserved byte (R8). -/
abbrev Config.loginReserved : Byte := 0x00#8

/-- The "unused" byte of the position and message packets (R8). -/
abbrev Config.unusedByte : Byte := 0xFF#8

end Sys2Proof
end

