-- ==== Sys2Proof/Syntax.lean ====
section
/-! DEFINITION. The instructions: one constructor for each row of spec/opcode_table.json, and the two encoded objects of 30_encoding.md (R56, R61). -/

namespace Sys2Proof

/-- The seven rows of the opcode table. The four commands and ILLEGAL are the data byte of a host
write to CMD (R56 to R58); RD and WR are host transactions (R61). -/
inductive Instr where
  /-- LOGIN, code 0x01 (R97). -/
  | login
  /-- SETBLOCK, code 0x02 (R98). -/
  | setBlock
  /-- POSITION, code 0x03 (R99). -/
  | position
  /-- MESSAGE, code 0x04 (R100). -/
  | message
  /-- RD, a host read (R69). Its DATA bits are part of the 77-bit word and are ignored (R61). -/
  | rd (addr : HostAddr) (data : Word)
  /-- WR, a host write (R68). -/
  | wr (addr : HostAddr) (data : Word)
  /-- ILLEGAL, each of the 252 codes that is no command's (R58, R101). -/
  | illegal (code : Byte)
  deriving DecidableEq, Repr

/-- The two encoded objects of 30_encoding.md: a command code (R56) and a host transaction (R61).
There is no other format or length (R62). -/
inductive CodeWord where
  | cmd8 (code : Byte)
  | hostTx (tx : HostTx)
  deriving DecidableEq, Repr

end Sys2Proof
end

