-- ==== Sys2Proof/WellFormed.lean ====
section
/-! DEFINITION. Which instruction terms stand for an encoding: every term but an ILLEGAL that carries a command's code (30_encoding.md R57, R58). -/

namespace Sys2Proof

/-- The four legal command codes (R57). -/
def isCommandCode (code : Byte) : Bool :=
  code == 0x01#8 || code == 0x02#8 || code == 0x03#8 || code == 0x04#8

/-- Every operand value of every row is encodable (R58, R61); an ILLEGAL carries one of the 252 codes
of R58. -/
def Instr.wellFormed : Instr → Bool
  | .login => true
  | .setBlock => true
  | .position => true
  | .message => true
  | .rd _ _ => true
  | .wr _ _ => true
  | .illegal code => !isCommandCode code

end Sys2Proof
end

