-- ==== Sys2Proof/Decode.lean ====
section
/-! DEFINITION. The decoder of command codes and host transactions (30_encoding.md R56 to R62), the reading of a numbered word as one of the two formats, and the encoder. -/

namespace Sys2Proof

/-- The opcode map of CODE (R57); every other code is ILLEGAL (R58). -/
def decodeCmd8 (code : Byte) : Instr :=
  if code = 0x01#8 then .login
  else if code = 0x02#8 then .setBlock
  else if code = 0x03#8 then .position
  else if code = 0x04#8 then .message
  else .illegal code

/-- Bit 76 of HOSTTX77: 0 = read, 1 = write (R61). -/
def txWE (tx : HostTx) : Bool := tx.getLsbD 76

/-- Bits 75:64 of HOSTTX77 (R61). -/
def txAddr (tx : HostTx) : HostAddr := tx.extractLsb' 64 12

/-- Bits 63:0 of HOSTTX77 (R61). -/
def txData (tx : HostTx) : Word := tx.extractLsb' 0 64

/-- Every one of the 2^77 words is a defined transaction (R61). -/
def decodeHostTx (tx : HostTx) : Instr :=
  if txWE tx then .wr (txAddr tx) (txData tx) else .rd (txAddr tx) (txData tx)

/-- The decoder. It is total: no command code and no transaction word is without an instruction
(R58, R61). -/
def decode : CodeWord → Instr
  | .cmd8 code => decodeCmd8 code
  | .hostTx tx => decodeHostTx tx

/-- Why a number with a bit count is no word of either format (R62). -/
inductive DecodeReject where
  /-- No bits are given at all. -/
  | noBits
  /-- A bit stands above bit 7 of a word of at most 8 bits. -/
  | aboveCmd8
  /-- A bit stands above bit 76 of a longer word. -/
  | aboveHostTx
  deriving DecidableEq, Repr

/-- Reads `nbits` bits with value `w`, bit 0 the least significant (R13), as a word of the format of
that length: CMD8 up to 8 bits, HOSTTX77 beyond, its 77 bits standing in whole bytes with the bits
above bit 76 clear (R62; log entry 10). -/
def readWord (nbits w : Nat) : Except DecodeReject CodeWord :=
  if nbits = 0 then .error .noBits
  else if nbits ≤ 8 then
    if w < 2 ^ 8 then .ok (.cmd8 (BitVec.ofNat 8 w)) else .error .aboveCmd8
  else
    if w < 2 ^ 77 then .ok (.hostTx (BitVec.ofNat 77 w)) else .error .aboveHostTx

/-- The instruction the decoder reads from a word of `nbits` bits numbered as the opcode table numbers
them; none where `readWord` rejects it. -/
def decodeTableWord (nbits w : Nat) : Option Instr :=
  match readWord nbits w with
  | .ok word => some (decode word)
  | .error _ => none

/-- A HOSTTX77 word from its three fields, WE:ADDR:DATA (R61): WE at bit 76, ADDR from bit 64 on, DATA from
bit 0 on. -/
def hostTxWord (we : Bool) (addr : HostAddr) (data : Word) : HostTx :=
  BitVec.ofNat 77 ((if we then 2 ^ 76 else 0) + addr.toNat * 2 ^ 64 + data.toNat)

/-- The encoder, from the opcode map (R57, R58) and the transaction format (R61). -/
def encode : Instr → CodeWord
  | .login => .cmd8 0x01#8
  | .setBlock => .cmd8 0x02#8
  | .position => .cmd8 0x03#8
  | .message => .cmd8 0x04#8
  | .rd addr data => .hostTx (hostTxWord false addr data)
  | .wr addr data => .hostTx (hostTxWord true addr data)
  | .illegal code => .cmd8 code

/-- The transaction that carries a word to the block: a command code goes as `WR CMD, code` (R64),
a transaction as itself. -/
def portWord : CodeWord → HostTx
  | .cmd8 code => hostTxWord true 0x000#12 (zext64 code)
  | .hostTx tx => tx

/-- The formats of the opcode table's rows (R62). -/
inductive Format where
  | cmd8
  | hostTx77
  deriving DecidableEq, Repr

/-- A row of spec/opcode_table.json: a word of the row's format is the row's when its bits under
`mask` are `match`. -/
structure OpcodeRow where
  mnemonic : String
  format : Format
  mask : Nat
  pattern : Nat
  deriving DecidableEq, Repr

/-- The six rows of spec/opcode_table.json that fix an instruction by mask and match. The seventh,
ILLEGAL, is every CMD8 word that no row here matches (its note in the table; R58). -/
def opcodeRows : List OpcodeRow :=
  [ { mnemonic := "LOGIN", format := .cmd8, mask := 0xFF, pattern := 0x01 },
    { mnemonic := "SETBLOCK", format := .cmd8, mask := 0xFF, pattern := 0x02 },
    { mnemonic := "POSITION", format := .cmd8, mask := 0xFF, pattern := 0x03 },
    { mnemonic := "MESSAGE", format := .cmd8, mask := 0xFF, pattern := 0x04 },
    { mnemonic := "RD", format := .hostTx77, mask := 0x10000000000000000000, pattern := 0 },
    { mnemonic := "WR", format := .hostTx77, mask := 0x10000000000000000000,
      pattern := 0x10000000000000000000 } ]

/-- Whether a word is one of a row's. -/
def OpcodeRow.accepts (row : OpcodeRow) : CodeWord → Bool
  | .cmd8 code => row.format == .cmd8 && (code.toNat &&& row.mask) == row.pattern
  | .hostTx tx => row.format == .hostTx77 && (tx.toNat &&& row.mask) == row.pattern

/-- The mnemonic of an instruction's row, letter for letter. -/
def Instr.mnemonic : Instr → String
  | .login => "LOGIN"
  | .setBlock => "SETBLOCK"
  | .position => "POSITION"
  | .message => "MESSAGE"
  | .rd _ _ => "RD"
  | .wr _ _ => "WR"
  | .illegal _ => "ILLEGAL"

end Sys2Proof
end

