-- ==== Sys2Proof/Machine/State.lean ====
section
/-! DEFINITION. The machine's state: the registers and buffers of 10_state.md R16 and R19, the synthesis parameters, the host port's schedule and the values its reads returned; the reasons a step can stop; the state after reset. -/

namespace Sys2Proof.Machine

/-- Why the machine would stop with a fault. The type is empty: "every operation is total over its input
domain" and no event transfers control or stalls the block (60_exceptions.md R105; log entry 15). Nobody
raises one, so nothing here is safe or unsafe. -/
inductive Fault
  deriving DecidableEq, Repr

/-- Why a step is refused. -/
inductive Refusal where
  /-- An instruction with no meaning yet. Only `exec`'s own arms raise it, and in this model none
  does. Safe: the machine stops where the block goes on. -/
  | notModelled (mnemonic : String)
  /-- An access by an agent that is not this instance's one host: "a model refuses such a
  configuration" (20_memory.md R53, D24). Raised by `step`. Safe: the spec gives such a run no
  meaning. -/
  | secondHost
  deriving DecidableEq, Repr

/-- The operand registers and string buffers (R16). Host writes alone change them (R31). -/
structure Operands where
  /-- Set-block x, two's complement (R23). -/
  sbx : BitVec 16
  /-- Set-block y (R23). -/
  sby : BitVec 16
  /-- Set-block z (R23). -/
  sbz : BitVec 16
  /-- Set-block mode byte (R24). -/
  mode : Byte
  /-- Set-block block type id (R25). -/
  btype : Byte
  /-- Position x, a binary64 pattern (R26). -/
  px : Word
  /-- Position y (R26). -/
  py : Word
  /-- Position z (R26). -/
  pz : Word
  /-- Position yaw (R29). -/
  yaw : Byte
  /-- Position pitch (R29). -/
  pitch : Byte
  /-- Declared length of string A, in code units (R28). -/
  lena : BitVec 16
  /-- Declared length of string B (R28). -/
  lenb : BitVec 16
  /-- String A: LOGIN's username and MESSAGE's text (R27). -/
  stra : Vector CodeUnit 64
  /-- String B: LOGIN's verification key (R27). -/
  strb : Vector CodeUnit 64
  deriving DecidableEq, Repr

/-- What the outside world does at the host port: one access by an agent, a reset, or an access issued
while reset is applied (R46, R47, R122; log entries 1 and 7). -/
inductive PortEvent where
  | access (agent : Nat) (tx : HostTx)
  | reset
  | accessInReset (agent : Nat) (tx : HostTx)
  deriving DecidableEq, Repr

/-- The operand registers and string elements by name (R70): what a host write may store to. -/
inductive OperandReg where
  | sbx | sby | sbz | mode | btype
  | px | py | pz | yaw | pitch
  | lena | lenb
  | strA (i : Fin 64)
  | strB (i : Fin 64)
  deriving DecidableEq, Repr

/-- The registers of the host register map (R19). -/
inductive HostReg where
  | cmd
  | status
  | outlen
  | operand (r : OperandReg)
  | out (i : Fin 131)
  deriving DecidableEq, Repr

/-- The two host-interface events (60_exceptions.md R106, R107). -/
inductive Event where
  | illcmd
  | badacc
  deriving DecidableEq, Repr

/-- The whole machine. `cmd`, `status`, `outlen`, `operands` and `outbuf` are the architectural state of
R16; `params` and `host` are fixed for the instance and no step changes them (log entries 3 and 8);
`port` holds what the host has still to do, oldest first, and `responses` what its reads have returned,
oldest first (log entries 1 and 2). -/
structure State where
  params : Params
  host : Nat
  /-- `CMD` (R20). -/
  cmd : Byte
  /-- `STATUS`: bit 0 DONE, bit 1 ILLCMD, bit 2 BADACC, the rest reserved (R21). -/
  status : Byte
  /-- `OUTLEN` (R22). -/
  outlen : Byte
  operands : Operands
  /-- `OUTBUF[0..130]` (R30). -/
  outbuf : Vector Byte 131
  port : List PortEvent
  responses : List Word
  deriving DecidableEq, Repr

/-- Every operand register and string element at its reset value, zero (R19, R121). -/
def Operands.reset : Operands where
  sbx := 0
  sby := 0
  sbz := 0
  mode := 0
  btype := 0
  px := 0
  py := 0
  pz := 0
  yaw := 0
  pitch := 0
  lena := 0
  lenb := 0
  stra := Vector.replicate 64 0
  strb := Vector.replicate 64 0

/-- The machine right after reset (R121, R35): every register zero, no access pending and nothing
read. The bytes of OUTBUF, which the spec leaves undetermined and no read can see, are zero
(log entry 6); `params` and `host` are those of log entries 3, 4 and 8. -/
def State.reset : State where
  params := Params.default
  host := 0
  cmd := 0
  status := 0
  outlen := 0
  operands := Operands.reset
  outbuf := Vector.replicate 131 0
  port := []
  responses := []

/-- `reg[CMD] <- code`. -/
def State.setCmd (code : Byte) (s : State) : State := { s with cmd := code }

/-- `reg[STATUS] <- v`. -/
def State.setStatus (v : Byte) (s : State) : State := { s with status := v }

/-- `reg[OUTLEN] <- n`. -/
def State.setOutlen (n : Byte) (s : State) : State := { s with outlen := n }

/-- Replaces the operand registers and string buffers. -/
def State.setOperands (o : Operands) (s : State) : State := { s with operands := o }

/-- Replaces the bytes of OUTBUF. -/
def State.setOutbuf (b : Vector Byte 131) (s : State) : State := { s with outbuf := b }

/-- Replaces what the host has still to do. -/
def State.setPort (evs : List PortEvent) (s : State) : State := { s with port := evs }

/-- Appends the 64-bit response of one read (R61). -/
def State.respond (v : Word) (s : State) : State := { s with responses := s.responses ++ [v] }

end Sys2Proof.Machine
end

