-- ==== Sys2Proof/Machine/Flags.lean ====
section
/-! DEFINITION. The STATUS bits: the block's only flags (10_state.md R21, R32), each event's bit (60_exceptions.md R106, R107), and write-1-to-clear (40_host_access.md R72). -/

namespace Sys2Proof.Machine

/-- `STATUS.DONE` (R21). -/
def statusDone (st : Byte) : Bool := st.getLsbD 0

/-- `STATUS.ILLCMD` (R21). -/
def statusIllcmd (st : Byte) : Bool := st.getLsbD 1

/-- `STATUS.BADACC` (R21). -/
def statusBadacc (st : Byte) : Bool := st.getLsbD 2

/-- The mask of `STATUS.DONE`. -/
def doneMask : Byte := 0x01#8

/-- An event's STATUS bit, at its code: ILLCMD is 1 and BADACC is 2 (R106, R107). -/
def eventMask : Event → Byte
  | .illcmd => 0x02#8
  | .badacc => 0x04#8

/-- Sets the bits of a mask. -/
def statusSet (st mask : Byte) : Byte := st ||| mask

/-- Clears the bits of a mask. -/
def statusClear (st mask : Byte) : Byte := st &&& ~~~mask

/-- A host write to STATUS clears each of bits 2:0 whose data bit is 1; `data[63:3]` is ignored (R72). -/
def statusW1C (st : Byte) (data : Word) : Byte := statusClear st (data.setWidth 8 &&& 0x07#8)

/-- STATUS after a legal command: DONE is set, and the sticky bits are unchanged (R96). -/
def statusAfterCommand (st : Byte) : Byte := statusSet st doneMask

/-- STATUS after an illegal code: ILLCMD is set and DONE cleared (R101). -/
def statusAfterIllegal (st : Byte) : Byte :=
  statusClear (statusSet st (eventMask .illcmd)) doneMask

end Sys2Proof.Machine
end

