-- ==== Sys2Proof/Machine/Operands.lean ====
section
/-! DEFINITION. Reading and writing the operand registers and string elements by name, each at its own width (10_state.md R23 to R29; 20_memory.md R42; 40_host_access.md R70, R75). -/

namespace Sys2Proof.Machine

/-- The register's width in bits (R19). -/
def operandWidth : OperandReg → Nat
  | .sbx | .sby | .sbz | .lena | .lenb | .strA _ | .strB _ => 16
  | .mode | .btype | .yaw | .pitch => 8
  | .px | .py | .pz => 64

/-- `zext_64(reg[r])` (R75). -/
def readOperand (o : Operands) : OperandReg → Word
  | .sbx => zext64 o.sbx
  | .sby => zext64 o.sby
  | .sbz => zext64 o.sbz
  | .mode => zext64 o.mode
  | .btype => zext64 o.btype
  | .px => o.px
  | .py => o.py
  | .pz => o.pz
  | .yaw => zext64 o.yaw
  | .pitch => zext64 o.pitch
  | .lena => zext64 o.lena
  | .lenb => zext64 o.lenb
  | .strA i => zext64 o.stra[i]
  | .strB i => zext64 o.strb[i]

/-- `reg[r] <- data[w-1:0]` (R70). -/
def writeOperand (o : Operands) (r : OperandReg) (data : Word) : Operands :=
  match r with
  | .sbx => { o with sbx := data.setWidth 16 }
  | .sby => { o with sby := data.setWidth 16 }
  | .sbz => { o with sbz := data.setWidth 16 }
  | .mode => { o with mode := data.setWidth 8 }
  | .btype => { o with btype := data.setWidth 8 }
  | .px => { o with px := data }
  | .py => { o with py := data }
  | .pz => { o with pz := data }
  | .yaw => { o with yaw := data.setWidth 8 }
  | .pitch => { o with pitch := data.setWidth 8 }
  | .lena => { o with lena := data.setWidth 16 }
  | .lenb => { o with lenb := data.setWidth 16 }
  | .strA i => { o with stra := o.stra.set i (data.setWidth 16) }
  | .strB i => { o with strb := o.strb.set i (data.setWidth 16) }

end Sys2Proof.Machine
end

