-- ==== Sys2Proof/Machine/Ops.lean ====
section
/-! DEFINITION. The shared operations: the register map (10_state.md R19), raising and acknowledging an event (60_exceptions.md), register reads, the field packer's store (41_datapath_primitives.md R92), completing a command (42_packet_commands.md R96, R101), reset (70_reset_and_hazards.md R121), and the port. -/

namespace Sys2Proof.Machine

/-- The host register map: the register at an address, none where it is unmapped (R19, R37). -/
def regAt (addr : HostAddr) : Option HostReg :=
  let a := addr.toNat
  if a = 0x000 then some .cmd
  else if a = 0x001 then some .status
  else if a = 0x002 then some .outlen
  else if a = 0x008 then some (.operand .sbx)
  else if a = 0x009 then some (.operand .sby)
  else if a = 0x00A then some (.operand .sbz)
  else if a = 0x00B then some (.operand .mode)
  else if a = 0x00C then some (.operand .btype)
  else if a = 0x010 then some (.operand .px)
  else if a = 0x011 then some (.operand .py)
  else if a = 0x012 then some (.operand .pz)
  else if a = 0x013 then some (.operand .yaw)
  else if a = 0x014 then some (.operand .pitch)
  else if a = 0x018 then some (.operand .lena)
  else if a = 0x019 then some (.operand .lenb)
  else if h : 0x100 ≤ a ∧ a < 0x140 then some (.operand (.strA ⟨a - 0x100, by omega⟩))
  else if h : 0x140 ≤ a ∧ a < 0x180 then some (.operand (.strB ⟨a - 0x140, by omega⟩))
  else if h : 0x200 ≤ a ∧ a < 0x283 then some (.out ⟨a - 0x200, by omega⟩)
  else none

/-- The address of a register (R19). -/
def addrOf : HostReg → HostAddr
  | .cmd => 0x000#12
  | .status => 0x001#12
  | .outlen => 0x002#12
  | .operand .sbx => 0x008#12
  | .operand .sby => 0x009#12
  | .operand .sbz => 0x00A#12
  | .operand .mode => 0x00B#12
  | .operand .btype => 0x00C#12
  | .operand .px => 0x010#12
  | .operand .py => 0x011#12
  | .operand .pz => 0x012#12
  | .operand .yaw => 0x013#12
  | .operand .pitch => 0x014#12
  | .operand .lena => 0x018#12
  | .operand .lenb => 0x019#12
  | .operand (.strA i) => BitVec.ofNat 12 (0x100 + i.val)
  | .operand (.strB i) => BitVec.ofNat 12 (0x140 + i.val)
  | .out i => BitVec.ofNat 12 (0x200 + i.val)

/-- `raise <Event>`: taking an event sets its STATUS bit and nothing else. No control is transferred, no
state saved, no mode changed (R14, R105, R111). -/
def raise (e : Event) (s : State) : State := s.setStatus (statusSet s.status (eventMask e))

/-- The host's acknowledgement of events, the only counterpart of a return: the write-1-to-clear of
STATUS (R72, R112). -/
def acknowledge (data : Word) (s : State) : State := s.setStatus (statusW1C s.status data)

/-- What a read of `OUT[i]` returns: the byte below OUTLEN, 0 at or beyond it (R30, R74). -/
def readOut (s : State) (i : Fin 131) : Word :=
  if i.val < s.outlen.toNat then zext64 s.outbuf[i] else 0

/-- What a read of STATUS returns: bits 7:3 are reserved and always read 0 (R21). -/
def readStatus (st : Byte) : Word := zext64 (st &&& 0x07#8)

/-- What a read of a mapped register returns (R74, R75). -/
def readReg (s : State) : HostReg → Word
  | .cmd => zext64 s.cmd
  | .status => readStatus s.status
  | .outlen => zext64 s.outlen
  | .operand r => readOperand s.operands r
  | .out i => readOut s i

/-- `reg[r] <- data[w-1:0]` of an operand register or string element (R70). -/
def storeOperand (r : OperandReg) (data : Word) (s : State) : State :=
  s.setOperands (writeOperand s.operands r data)

/-- OUTBUF with the bytes of `p` at offsets 0 to `len(p)-1`; the other bytes keep their values
(R92, R96; log entry 6). -/
def overlay (p : List Byte) (b : Vector Byte 131) : Vector Byte 131 :=
  Vector.ofFn fun i => p.getD i.val b[i]

/-- The field packer's effect on the output buffer: `OUTBUF[i] <- p[i]` and `OUTLEN <- len(p)` (R92). DESIGN
CHOICE: bytes beyond the 131 of OUTBUF are dropped and the length is taken modulo 2^8; no command packs so
many (log entry 22). -/
def pack (p : List Byte) (s : State) : State :=
  (s.setOutbuf (overlay p s.outbuf)).setOutlen (BitVec.ofNat 8 p.length)

/-- A legal command's whole effect, given its packet: CMD holds the code (R71), the packet is packed,
DONE is set (R96). -/
def completeCommand (code : Byte) (p : List Byte) (s : State) : State :=
  let t := pack p (s.setCmd code)
  t.setStatus (statusAfterCommand t.status)

/-- An illegal code's whole effect: CMD holds the code (R71), ILLCMD is raised, DONE is cleared and OUTLEN
is 0 (R101). -/
def illegalCommand (code : Byte) (s : State) : State :=
  ((s.setCmd code).setOutlen 0).setStatus (statusAfterIllegal s.status)

/-- Reset: every register takes its reset value (R121). The instance's parameters and host, what the host
has still to do and what it has read are no registers and stay. -/
def applyReset (s : State) : State :=
  { State.reset with
    params := s.params, host := s.host, port := s.port, responses := s.responses }

/-- An access issued while reset is applied: the registers are at their reset values, the access has no
effect, and a read returns 0 (R122). -/
def accessUnderReset (tx : HostTx) (s : State) : State :=
  if txWE tx then applyReset s else (applyReset s).respond 0

/-- The oldest port event and the machine with that event taken from the port (R47). -/
def takeEvent (s : State) : Option (PortEvent × State) :=
  match s.port with
  | [] => none
  | ev :: rest => some (ev, s.setPort rest)

/-- The state with a transaction by this instance's host as the next port event. -/
def placeAccess (tx : HostTx) (s : State) : State := s.setPort (.access s.host tx :: s.port)

/-- The transaction that carries a numbered word of the opcode table to the block; the word's bits
above its format are dropped where `readWord` rejects it. -/
def tableTransaction (nbits w : Nat) : HostTx :=
  match readWord nbits w with
  | .ok word => portWord word
  | .error _ => BitVec.ofNat 77 w

end Sys2Proof.Machine
end

