-- ==== Sys2Proof/Machine/Binary64.lean ====
section
/-! DEFINITION. IEEE 754 binary64 as POSITION uses it: `f64`, `addRNE64` and `mul64` of 00_scope.md R14 (41_datapath_primitives.md R83 to R86, R94), computed exactly and rounded once. The semantics is the spec's general knowledge G2 (log entry 11). -/

namespace Sys2Proof.Machine

/-- A binary64 datum. A finite one is a sign and a magnitude in units of 2^-1074, the least positive
binary64 value, so that every finite value is a whole number of units; the sign of zero is kept. -/
inductive F64 where
  | nan
  | inf (neg : Bool)
  | fin (neg : Bool) (mag : Nat)
  deriving DecidableEq, Repr

/-- The number of units of 2^-1074 in 1. -/
def unitsPerOne : Nat := 2 ^ 1074

/-- The least magnitude that is too large for binary64: 2^1024, in units. -/
def overflowUnits : Nat := 2 ^ 2098

/-- The exact value of a finite datum in units of 2^-1074 (0 for the others). -/
def F64.units : F64 → Int
  | .nan => 0
  | .inf _ => 0
  | .fin neg mag => if neg then -(mag : Int) else mag

/-- Whether a datum is finite. -/
def F64.isFinite : F64 → Bool
  | .nan => false
  | .inf _ => false
  | .fin _ _ => true

/-- `f64(b)`: the datum a pattern encodes. NaNs of any sign and payload are one NaN; subnormals are not
flushed (R83, R94). -/
def f64 (b : Word) : F64 :=
  let neg := b.getLsbD 63
  let expo := (b.extractLsb' 52 11).toNat
  let frac := (b.extractLsb' 0 52).toNat
  if expo = 2047 then (if frac = 0 then .inf neg else .nan)
  else if expo = 0 then .fin neg frac
  else .fin neg ((2 ^ 52 + frac) * 2 ^ (expo - 1))

/-- The integer nearest `num / den`, the even one of two equally near. -/
def rneQuot (num den : Nat) : Nat :=
  let q := num / den
  let r := num % den
  if 2 * r < den then q
  else if den < 2 * r then q + 1
  else if q % 2 = 0 then q
  else q + 1

/-- roundTiesToEven of the magnitude `num / den` units to a significand of at most 53 bits, subnormals
included: the last kept place is never below one unit. The exponent range is unbounded above. -/
def roundUnits (num den : Nat) : Nat :=
  let drop := (num / den).log2 + 1 - 53
  rneQuot num (den * 2 ^ drop) * 2 ^ drop

/-- A rounded magnitude as a datum: an infinity from 2^1024 on. -/
def ofRounded (neg : Bool) (mag : Nat) : F64 :=
  if overflowUnits ≤ mag then .inf neg else .fin neg mag

/-- `addRNE64(a, b)`: binary64 addition with roundTiesToEven (R14, R85). An exact zero sum is +0 unless
both operands are negative zeros. -/
def addRNE64 : F64 → F64 → F64
  | .nan, _ => .nan
  | _, .nan => .nan
  | .inf n, .inf m => if n = m then .inf n else .nan
  | .inf n, .fin _ _ => .inf n
  | .fin _ _, .inf m => .inf m
  | .fin n a, .fin m b =>
    let sum := (F64.fin n a).units + (F64.fin m b).units
    if sum = 0 then .fin (n && m) 0
    else ofRounded (decide (sum < 0)) (roundUnits sum.natAbs 1)

/-- `mul64(a, b)`: binary64 multiplication with roundTiesToEven (R14, R86). -/
def mul64 : F64 → F64 → F64
  | .nan, _ => .nan
  | _, .nan => .nan
  | .inf n, .inf m => .inf (n != m)
  | .inf n, .fin m b => if b = 0 then .nan else .inf (n != m)
  | .fin n a, .inf m => if a = 0 then .nan else .inf (n != m)
  | .fin n a, .fin m b => ofRounded (n != m) (roundUnits (a * b) unitsPerOne)

/-- The 64-bit pattern with the given sign, exponent field and fraction field. -/
def f64Pattern (neg : Bool) (expo frac : Nat) : Word :=
  BitVec.ofNat 64 ((if neg then 2 ^ 63 else 0) + expo * 2 ^ 52 + frac)

/-- The pattern of a datum; NaN is the quiet NaN 0x7FF8000000000000. Only the LDF notation uses it
(30_encoding.md R66). -/
def packF64 : F64 → Word
  | .nan => f64Pattern false 2047 (2 ^ 51)
  | .inf neg => f64Pattern neg 2047 0
  | .fin neg mag =>
    if mag < 2 ^ 52 then f64Pattern neg 0 mag
    else
      let e := mag.log2 - 52
      f64Pattern neg (e + 1) (mag / 2 ^ e - 2 ^ 52)

/-- The binary64 value nearest the decimal `± digits / 10^places`, ties to even (R66, G3). DESIGN CHOICE: a
literal that rounds to 2^1024 or beyond gives the infinity of its sign, where R66 and G3 name no pattern
(log entry 18). DESIGN CHOICE: a negative literal that rounds to zero gives -0, where they name no sign
(log entry 19). -/
def f64OfDecimal (neg : Bool) (digits places : Nat) : F64 :=
  ofRounded neg (roundUnits (digits * unitsPerOne) (10 ^ places))

end Sys2Proof.Machine
end

