-- ==== Sys2Proof/Machine/FixedPoint.lean ====
section
/-! DEFINITION. The coordinate scaler and the fixed-point multiplier (41_datapath_primitives.md R84 to R90). -/

namespace Sys2Proof.Machine

/-- The pattern of the eye-height offset (R84). -/
def c121Bits : Word := 0x3FF35C28F5C28F5C#64

/-- `C121`, the binary64 value nearest 1.21 (R84). -/
def c121 : F64 := f64 c121Bits

/-- 32.0, the scale `SCALE` (R8, R86). -/
def scale32 : F64 := f64 0x4040000000000000#64

/-- The coordinate scaler, z axis only: `tz <- addRNE64(vz, C121)` (R85). -/
def scaleZ (vz : F64) : F64 := addRNE64 vz c121

/-- `mul64(t, 32.0)` (R86). -/
def times32 (t : F64) : F64 := mul64 t scale32

/-- `roundInt(s, ROUND_TIES)` of a finite value given in units of 2^-1074 (R87): the floor, moved up by the
distance to it and the tie rule. -/
def roundInt (ties : RoundTies) (s : Int) : Int :=
  let one : Int := unitsPerOne
  let f := s.fdiv one
  let d := s - f * one
  if 2 * d < one then f
  else if one < 2 * d then f + 1
  else
    match ties with
    | .even => if f % 2 = 0 then f else f + 1
    | .away => if 0 < s then f + 1 else f

/-- `wrap16(r) = r mod 2^16` (R88). -/
def wrap16 (r : Int) : BitVec 16 := BitVec.ofInt 16 r

/-- The 16-bit field of a scaled value: rounded and wrapped where it is finite, NONFINITE_I16 of its kind
where it is not (R89, R90). -/
def fieldOf (p : Params) : F64 → BitVec 16
  | .nan => p.nonfiniteNaN
  | .inf false => p.nonfinitePosInf
  | .inf true => p.nonfiniteNegInf
  | .fin neg mag => wrap16 (roundInt p.roundTies (F64.fin neg mag).units)

/-- `fixq(t)`: the fixed-point conversion of one axis (R90). -/
def fixq (p : Params) (t : F64) : BitVec 16 := fieldOf p (times32 t)

end Sys2Proof.Machine
end

