-- ==== Sys2Proof/Machine/Text.lean ====
section
/-! DEFINITION. The ASCII mapper and string padder (41_datapath_primitives.md R78 to R82). -/

namespace Sys2Proof.Machine

/-- `asc(c)`: a code unit below 0x80 is its own byte, every other one is NONASCII_BYTE (R78). -/
def asc (nonascii : Byte) (c : CodeUnit) : Byte :=
  if c.toNat < 0x80 then c.setWidth 8 else nonascii

/-- `neff(LEN) = min(LEN, 64)` (R79). -/
def neff (len : Nat) : Nat := min len Config.slotWidth

/-- `slot(buf, LEN)`, which is `encode_fixed_text(s, 64)`: the mapped code units below the effective
length, then spaces (R80). -/
def slot (nonascii : Byte) (buf : Vector CodeUnit 64) (len : Nat) : List Byte :=
  List.ofFn fun i : Fin 64 => if i.val < neff len then asc nonascii buf[i] else Config.padByte

end Sys2Proof.Machine
end

