-- ==== Sys2Proof/Machine/Packets.lean ====
section
/-! DEFINITION. The byte-order formatter (41_datapath_primitives.md R91) and the four packets in wire order (42_packet_commands.md R97 to R100). A packet is a function of the parameters and the operands alone (10_state.md R33). -/

namespace Sys2Proof.Machine

/-- `be16(v) = [v[15:8], v[7:0]]`: most significant byte first (R38, R91). -/
def be16 (v : BitVec 16) : List Byte := [v.extractLsb' 8 8, v.extractLsb' 0 8]

/-- The Identification packet (R97). -/
def loginPacket (p : Params) (o : Operands) : List Byte :=
  [Config.pktidLogin] ++ [Config.protoVer] ++ slot p.nonasciiByte o.stra o.lena.toNat
    ++ slot p.nonasciiByte o.strb o.lenb.toNat ++ [Config.loginReserved]

/-- The SetBlock packet: x, z, y on the wire, mode and block type verbatim (R98). -/
def setBlockPacket (p : Params) (o : Operands) : List Byte :=
  [p.pktidSetBlock] ++ be16 o.sbx ++ be16 o.sbz ++ be16 o.sby ++ [o.mode] ++ [o.btype]

/-- The PositionUpdate packet: x, z, y on the wire, z alone with the eye-height offset, yaw and pitch
verbatim (R99). -/
def positionPacket (p : Params) (o : Operands) : List Byte :=
  let fx := fixq p (f64 o.px)
  let fz := fixq p (scaleZ (f64 o.pz))
  let fy := fixq p (f64 o.py)
  [p.pktidPosition] ++ [Config.unusedByte] ++ be16 fx ++ be16 fz ++ be16 fy ++ [o.yaw] ++ [o.pitch]

/-- The Message packet, the truncation to 64 code units applied (R100, R82; C1). -/
def messagePacket (p : Params) (o : Operands) : List Byte :=
  let n := min o.lena.toNat 64
  [p.pktidMessage] ++ [Config.unusedByte] ++ slot p.nonasciiByte o.stra n

end Sys2Proof.Machine
end

