-- ==== Sys2Proof/Machine/Commands.lean ====
section
/-! DEFINITION. The meanings of the CMD8 rows: LOGIN, SETBLOCK, POSITION, MESSAGE and ILLEGAL (42_packet_commands.md R96 to R101). Each is `WR CMD, code` (30_encoding.md R64). -/

namespace Sys2Proof.Machine

/-- LOGIN, code 0x01 (R97, R96). -/
def execLogin (s : State) : Host.Outcome State Fault Refusal :=
  .next (completeCommand 0x01#8 (loginPacket s.params s.operands) s)

/-- SETBLOCK, code 0x02 (R98, R96). -/
def execSetBlock (s : State) : Host.Outcome State Fault Refusal :=
  .next (completeCommand 0x02#8 (setBlockPacket s.params s.operands) s)

/-- POSITION, code 0x03 (R99, R96). -/
def execPosition (s : State) : Host.Outcome State Fault Refusal :=
  .next (completeCommand 0x03#8 (positionPacket s.params s.operands) s)

/-- MESSAGE, code 0x04 (R100, R96). -/
def execMessage (s : State) : Host.Outcome State Fault Refusal :=
  .next (completeCommand 0x04#8 (messagePacket s.params s.operands) s)

/-- ILLEGAL: each of the 252 other codes raises ILLCMD, clears DONE and leaves no packet (R101, R58). -/
def execIllegal (code : Byte) (s : State) : Host.Outcome State Fault Refusal :=
  .next (illegalCommand code s)

end Sys2Proof.Machine
end

