-- ==== Sys2Proof/Machine/HostAccess.lean ====
section
/-! DEFINITION. The meanings of the HOSTTX77 rows: host read and host write, on every register class (40_host_access.md R68 to R76). -/

namespace Sys2Proof.Machine

/-- A host write to CMD runs the command its data byte selects, with that byte left in CMD (R71). -/
def runCode (code : Byte) (s : State) : Host.Outcome State Fault Refusal :=
  if code = 0x01#8 then execLogin s
  else if code = 0x02#8 then execSetBlock s
  else if code = 0x03#8 then execPosition s
  else if code = 0x04#8 then execMessage s
  else execIllegal code s

/-- RD, `HostRead(addr)` (R69): a mapped register's value zero-extended (R74, R75); BADACC and 0 where the
address is unmapped (R76). The word's DATA bits are ignored (R61). -/
def execRd (addr : HostAddr) (_data : Word) (s : State) : Host.Outcome State Fault Refusal :=
  match regAt addr with
  | some r => .next (s.respond (readReg s r))
  | none => .next ((raise .badacc s).respond 0)

/-- WR, `HostWrite(addr, data)` (R68): an operand is stored (R70), CMD runs a command (R71), STATUS is
write-1-to-clear (R72), and a read-only register or an unmapped address raises BADACC (R73, R76). -/
def execWr (addr : HostAddr) (data : Word) (s : State) : Host.Outcome State Fault Refusal :=
  match regAt addr with
  | some (.operand r) => .next (storeOperand r data s)
  | some .cmd => runCode (data.setWidth 8) s
  | some .status => .next (acknowledge data s)
  | some .outlen => .next (raise .badacc s)
  | some (.out _) => .next (raise .badacc s)
  | none => .next (raise .badacc s)

end Sys2Proof.Machine
end

