-- ==== Sys2Proof/Machine/Dispatch.lean ====
section
/-! DEFINITION. The one match from an instruction to its meaning, one arm per row of spec/opcode_table.json. -/

namespace Sys2Proof.Machine

def exec (i : Instr) (s : State) : Host.Outcome State Fault Refusal :=
  match i with
  | .login => Sys2Proof.Machine.execLogin s
  | .setBlock => Sys2Proof.Machine.execSetBlock s
  | .position => Sys2Proof.Machine.execPosition s
  | .message => Sys2Proof.Machine.execMessage s
  | .rd addr data => Sys2Proof.Machine.execRd addr data s
  | .wr addr data => Sys2Proof.Machine.execWr addr data s
  | .illegal code => Sys2Proof.Machine.execIllegal code s

end Sys2Proof.Machine
end

