-- ==== Sys2Proof/Machine/Step.lean ====
section
/-! DEFINITION. One step of the machine: the oldest port event takes effect (20_memory.md R47), reset ahead of every access (70_reset_and_hazards.md R122). -/

namespace Sys2Proof.Machine

/-- One step. An access by the instance's host runs the instruction its transaction word encodes, to
completion (R47, R125); an access by another agent is refused (R53); a reset, and an access issued
under reset, act as R121 and R122 say; with nothing at the port the block holds its registers (R119). -/
def step (s : State) : Host.Outcome State Fault Refusal :=
  match takeEvent s with
  | none => .next s
  | some (.reset, t) => .next (applyReset t)
  | some (.access agent tx, t) =>
    if agent = t.host then exec (decode (.hostTx tx)) t else .refused .secondHost
  | some (.accessInReset agent tx, t) =>
    if agent = t.host then .next (accessUnderReset tx t) else .refused .secondHost

/-- `s` with the instruction of `nbits` bits and value `w`, numbered as the opcode table numbers them, as
the host's next access: a transaction as itself, a command code as the host write to CMD that carries it
(R56, R64; log entries 1 and 10). -/
def State.withFetchWord (s : State) (nbits w : Nat) : State :=
  placeAccess (tableTransaction nbits w) s

end Sys2Proof.Machine
end

