-- ==== Sys2Proof/Machine/Notation.lean ====
section
/-! DEFINITION. The host notation of 30_encoding.md as expansions into instructions: RD and WR on a named register (R63), and the pseudo-instructions LOGIN, SETBLOCK, POSITION, MESSAGE, LDSTR, LDF, LDC, CLRST and RDPKT (R64 to R67). -/

namespace Sys2Proof.Machine

/-- `WR <reg>, <value>` (R63). -/
def wrReg (r : HostReg) (value : Word) : Instr := .wr (addrOf r) value

/-- `RD <reg>` (R63): the data bits of the word are zero. -/
def rdReg (r : HostReg) : Instr := .rd (addrOf r) 0

/-- The string operand of LDSTR (R65). -/
inductive StringName where
  | A
  | B
  deriving DecidableEq, Repr

/-- The coordinate operand of LDF (R66). -/
inductive PositionName where
  | PX
  | PY
  | PZ
  deriving DecidableEq, Repr

/-- The coordinate operand of LDC (R66). -/
inductive BlockName where
  | SBX
  | SBY
  | SBZ
  deriving DecidableEq, Repr

/-- The pseudo-instructions of R64 to R67. A decimal literal is `± digits / 10^places`; RDPKT carries the
value its first read returned. -/
inductive Pseudo where
  | login
  | setBlock
  | position
  | message
  | ldstr (x : StringName) (text : List CodeUnit)
  | ldf (x : PositionName) (neg : Bool) (digits places : Nat)
  | ldc (x : BlockName) (value : Int)
  | clrst
  | rdpkt (n : Nat)
  deriving DecidableEq, Repr

/-- The length register of a string. -/
def lenReg : StringName → OperandReg
  | .A => .lena
  | .B => .lenb

/-- Element `i` of a string. -/
def elemReg (x : StringName) (i : Fin 64) : OperandReg :=
  match x with
  | .A => .strA i
  | .B => .strB i

/-- A position coordinate's register. -/
def positionReg : PositionName → OperandReg
  | .PX => .px
  | .PY => .py
  | .PZ => .pz

/-- A set-block coordinate's register. -/
def blockReg : BlockName → OperandReg
  | .SBX => .sbx
  | .SBY => .sby
  | .SBZ => .sbz

/-- The element writes of LDSTR from element `i` on: `WR STRx[i], u[i]`, for the first 64 code units
alone (R65). -/
def elemWrites (x : StringName) : Nat → List CodeUnit → List Instr
  | _, [] => []
  | i, u :: us =>
    if h : i < 64 then wrReg (.operand (elemReg x ⟨i, h⟩)) (zext64 u) :: elemWrites x (i + 1) us
    else []

/-- The readout from byte `i` on: `n` reads `RD OUT[i]`, … (R67). DESIGN CHOICE: it ends at OUT[130], the last
there is, however large `n` (log entry 21). -/
def outReads : Nat → Nat → List Instr
  | _, 0 => []
  | i, n + 1 => if h : i < 131 then rdReg (.out ⟨i, h⟩) :: outReads (i + 1) n else []

/-- The expansion of a pseudo-instruction (R64 to R67). DESIGN CHOICE: R66 gives LDC for literals from -32768
to 32767 alone; any other integer is not refused here and is written modulo 2^16 (log entry 20). -/
def Pseudo.expand : Pseudo → List Instr
  | .login => [wrReg .cmd 0x01#64]
  | .setBlock => [wrReg .cmd 0x02#64]
  | .position => [wrReg .cmd 0x03#64]
  | .message => [wrReg .cmd 0x04#64]
  | .ldstr x text =>
    wrReg (.operand (lenReg x)) (BitVec.ofNat 64 (min text.length 0xFFFF)) :: elemWrites x 0 text
  | .ldf x neg digits places =>
    [wrReg (.operand (positionReg x)) (packF64 (f64OfDecimal neg digits places))]
  | .ldc x value => [wrReg (.operand (blockReg x)) (zext64 (wrap16 value))]
  | .clrst => [wrReg .status 0x07#64]
  | .rdpkt n => rdReg .outlen :: outReads 0 n

end Sys2Proof.Machine
end

