-- ==== Sys2Proof/Safety.lean ====
section
/-! DEFINITION. The terms claims use: the address ranges of the register map as R19 lists them, the invariant of the reachable states, what a host can see, what a command reads, and sequences of accesses. -/

namespace Sys2Proof.Machine

/-- The unmapped addresses, range by range as R19 lists them. -/
def unmappedAddr (a : HostAddr) : Bool :=
  let n := a.toNat
  (0x003 ≤ n && n ≤ 0x007) || (0x00D ≤ n && n ≤ 0x00F) || (0x015 ≤ n && n ≤ 0x017)
    || (0x01A ≤ n && n ≤ 0x0FF) || (0x180 ≤ n && n ≤ 0x1FF) || 0x283 ≤ n

/-- The addresses of the RW operand registers and string elements (R19). -/
def operandAddr (a : HostAddr) : Bool :=
  let n := a.toNat
  (0x008 ≤ n && n ≤ 0x00C) || (0x010 ≤ n && n ≤ 0x014) || (0x018 ≤ n && n ≤ 0x019)
    || (0x100 ≤ n && n ≤ 0x17F)

/-- The addresses of the read-only registers OUTLEN and OUT[i] (R19, R73). -/
def readOnlyAddr (a : HostAddr) : Bool :=
  let n := a.toNat
  n == 0x002 || (0x200 ≤ n && n ≤ 0x282)

/-- The width column of R19 for the operand addresses: 64 bits for PX, PY, PZ, 8 bits for MODE, BTYPE, YAW,
PITCH, 16 bits for the rest. -/
def addrWidth (a : HostAddr) : Nat :=
  let n := a.toNat
  if 0x010 ≤ n ∧ n ≤ 0x012 then 64
  else if n = 0x00B ∨ n = 0x00C ∨ n = 0x013 ∨ n = 0x014 then 8
  else 16

/-- The code an instruction issues to the serializer: a command's own, an ILLEGAL's, or the data byte of a
host write to CMD; none for every other access (R56, R71). -/
def issuedCode : Instr → Option Byte
  | .login => some 0x01#8
  | .setBlock => some 0x02#8
  | .position => some 0x03#8
  | .message => some 0x04#8
  | .illegal code => some code
  | .wr addr data => if addr = 0x000#12 then some (data.setWidth 8) else none
  | .rd _ _ => none

/-- Whether an instruction is one of the accesses that raise BADACC: a read or write of an unmapped address,
or a write to a read-only register (R107). -/
def isBadAccess : Instr → Bool
  | .rd addr _ => unmappedAddr addr
  | .wr addr _ => unmappedAddr addr || readOnlyAddr addr
  | _ => false

/-- The bits of STATUS a host write to it selects for clearing (R72); none for every other access. -/
def clearsStatusBit (i : Instr) (j : Nat) : Bool :=
  match i with
  | .wr addr data => addr == 0x001#12 && decide (j < 3) && data.getLsbD j
  | _ => false

/-- The length of the packet a code builds; 0 for an illegal code (R57, R101). -/
def packetLength (code : Byte) : Nat :=
  if code = 0x01#8 then 131
  else if code = 0x02#8 then 9
  else if code = 0x03#8 then 10
  else if code = 0x04#8 then 66
  else 0

/-- The bytes of the packet that the host can read: OUTBUF below OUTLEN (R30, R54). -/
def visibleOut (s : State) : List Byte := s.outbuf.toList.take s.outlen.toNat

/-- Two states that differ at most in OUTBUF bytes at or beyond OUTLEN, which no read returns (R30, I9). -/
def SameVisible (s t : State) : Prop :=
  t = { s with outbuf := t.outbuf } ∧
    ∀ i : Fin 131, i.val < s.outlen.toNat → t.outbuf[i] = s.outbuf[i]

/-- The same of two outcomes of a step or a run. -/
def SameVisibleOutcome : Host.Outcome State Fault Refusal → Host.Outcome State Fault Refusal → Prop
  | .next s, .next t => SameVisible s t
  | .refused r, .refused q => r = q
  | .fault f, .fault g => f = g
  | _, _ => False

/-- The fixed bytes of the packet that CMD's code left in OUTBUF: packet ID, protocol version, unused and
reserved bytes (R97 to R100). -/
def headerOk (s : State) : Prop :=
  (s.cmd = 0x01#8 → s.outbuf[0] = 0x00#8 ∧ s.outbuf[1] = 0x07#8 ∧ s.outbuf[130] = 0x00#8) ∧
  (s.cmd = 0x02#8 → s.outbuf[0] = s.params.pktidSetBlock) ∧
  (s.cmd = 0x03#8 → s.outbuf[0] = s.params.pktidPosition ∧ s.outbuf[1] = 0xFF#8) ∧
  (s.cmd = 0x04#8 → s.outbuf[0] = s.params.pktidMessage ∧ s.outbuf[1] = 0xFF#8)

/-- Every byte of a text slot in OUTBUF is ASCII or NONASCII_BYTE (R78, R80). -/
def slotsOk (s : State) : Prop :=
  (s.cmd = 0x01#8 → ∀ i : Fin 131, 2 ≤ i.val → i.val < 130 →
    s.outbuf[i].toNat < 0x80 ∨ s.outbuf[i] = s.params.nonasciiByte) ∧
  (s.cmd = 0x04#8 → ∀ i : Fin 131, 2 ≤ i.val → i.val < 66 →
    s.outbuf[i].toNat < 0x80 ∨ s.outbuf[i] = s.params.nonasciiByte)

/-- What every reachable state satisfies: STATUS's reserved bits are 0 (R21); OUTLEN is the length that the
last code gives, so one of 0, 9, 10, 66 and 131 (R22); DONE stands only beside a packet (R96, R101); and
the packet's fixed bytes and text bytes are as its layout says. -/
def StateInv (s : State) : Prop :=
  s.status &&& 0xF8#8 = 0#8 ∧ s.outlen.toNat = packetLength s.cmd ∧
    (statusDone s.status = true → s.outlen ≠ 0#8) ∧ headerOk s ∧ slotsOk s

/-- The registers-read column of R59, by command code. -/
def codeReads (code : Byte) : OperandReg → Bool
  | .lena => code == 0x01#8 || code == 0x04#8
  | .strA _ => code == 0x01#8 || code == 0x04#8
  | .lenb => code == 0x01#8
  | .strB _ => code == 0x01#8
  | .sbx | .sby | .sbz | .mode | .btype => code == 0x02#8
  | .px | .py | .pz | .yaw | .pitch => code == 0x03#8

/-- Two parameter sets that agree on the parameters-used column of R59, by command code. -/
def sameParamsFor (code : Byte) (p q : Params) : Prop :=
  (code = 0x01#8 → p.nonasciiByte = q.nonasciiByte) ∧
  (code = 0x02#8 → p.pktidSetBlock = q.pktidSetBlock) ∧
  (code = 0x03#8 → p.pktidPosition = q.pktidPosition ∧ p.roundTies = q.roundTies ∧
    p.nonfiniteNaN = q.nonfiniteNaN ∧ p.nonfinitePosInf = q.nonfinitePosInf ∧
    p.nonfiniteNegInf = q.nonfiniteNegInf) ∧
  (code = 0x04#8 → p.pktidMessage = q.pktidMessage ∧ p.nonasciiByte = q.nonasciiByte)

/-- The accesses of a sequence, one after another, stopping at the first that does not complete (R47). -/
def execAll : List Instr → State → Host.Outcome State Fault Refusal
  | [], s => .next s
  | i :: is, s =>
    match exec i s with
    | .next t => execAll is t
    | .fault f => .fault f
    | .refused r => .refused r

/-- A safe run: it is not refused, that is, every access on the port is by the instance's one host (R53). -/
def oneHost (s : State) : Bool :=
  s.port.all fun ev =>
    match ev with
    | .access agent _ => agent == s.host
    | .reset => true
    | .accessInReset agent _ => agent == s.host

end Sys2Proof.Machine
end

