-- ==== Sys2Proof/Certificates/Slice0/Obligations.lean ====
section
/-! DEFINITION. The statements for the provers, each with the rules of spec/ it formalises. -/

section

open Sys2Proof Sys2Proof.Machine

/-! ### Reset, the step and the whole machine -/

/-- R121, R35: reset leaves every register at 0, starts no command (DONE is 0 and no packet stands), and every
read of a mapped register then returns 0, OUT[i] included. -/
def Obligations.ResetZeroesEveryRegister : Prop :=
  State.reset.cmd = 0#8 ∧ State.reset.status = 0#8 ∧ State.reset.outlen = 0#8 ∧
  (∀ r : OperandReg, readOperand State.reset.operands r = 0#64) ∧
  (∀ (a : HostAddr) (d : Word), unmappedAddr a = false →
    exec (.rd a d) State.reset = .next { State.reset with responses := State.reset.responses ++ [0#64] })

/-- The state after reset meets the invariant. -/
def Obligations.ResetMeetsTheInvariant : Prop := StateInv State.reset

/-- Every step keeps the invariant, from any state that meets it: STATUS bits 7:3 stay 0 (R21), OUTLEN stays
the length of the last code's packet (R22), DONE stands only beside a packet, and the packet's fixed bytes
and text bytes stay as R97 to R100 lay them out. -/
def Obligations.EveryStepKeepsTheInvariant : Prop :=
  ∀ s t : State, StateInv s → step s = .next t → StateInv t

/-- R121, R122: a reset at the port sets every register to 0 whatever it held, ahead of the accesses behind
it. That the parameters, the host, the accesses still to come and the values already read stay is the
model's reading (log entry 7). -/
def Obligations.ResetEventZeroesEveryRegister : Prop :=
  ∀ (s : State) (rest : List PortEvent), s.port = .reset :: rest →
    ∃ t, step s = .next t ∧ t.cmd = 0#8 ∧ t.status = 0#8 ∧ t.outlen = 0#8 ∧
      (∀ r : OperandReg, readOperand t.operands r = 0#64) ∧
      t.params = s.params ∧ t.host = s.host ∧ t.port = rest ∧ t.responses = s.responses

/-- R122: an access issued while reset is applied has no effect (the machine is as the reset alone leaves
it) and its read value is 0. The event's form is the model's choice (log entry 7). -/
def Obligations.AccessUnderResetHasNoEffect : Prop :=
  ∀ (s : State) (tx : HostTx) (rest : List PortEvent),
    s.port = .accessInReset s.host tx :: rest →
      ∃ t, step { s with port := .reset :: rest } = .next t ∧
        step s = .next { t with
          responses := t.responses ++ (if tx.getLsbD 76 then [] else [0#64]) }

/-- R47, R125: when the oldest port event is an access by the instance's host, the step is the whole meaning
of the instruction its word decodes to, from the state with that event taken from the port; a host write
to CMD is likewise the whole meaning of the command its data byte decodes to. The port's list of events is
the model's form of the host's accesses (log entry 1). -/
def Obligations.StepRunsTheOldestAccess : Prop :=
  ∀ (s : State) (tx : HostTx) (rest : List PortEvent), s.port = .access s.host tx :: rest →
    step s = exec (decode (.hostTx tx)) { s with port := rest } ∧
    (tx.getLsbD 76 = true → tx.extractLsb' 64 12 = 0x000#12 →
      step s = exec (decode (.cmd8 (tx.extractLsb' 0 8))) { s with port := rest })

/-- R119: with nothing at the port the block holds its registers. That such a step changes nothing at all is
the model's choice (log entry 1). -/
def Obligations.IdlePortHoldsEverything : Prop :=
  ∀ s : State, s.port = [] → step s = .next s

/-- R53: an access by an agent that is not the instance's host is refused. That the host is a number in State
is the model's choice (log entry 8), and so is that an access under reset is refused too, the agent being
looked at before the reset (log entry 7). -/
def Obligations.SecondHostAccessIsRefused : Prop :=
  ∀ (s : State) (agent : Nat) (tx : HostTx) (rest : List PortEvent), agent ≠ s.host →
    (s.port = .access agent tx :: rest ∨ s.port = .accessInReset agent tx :: rest) →
      step s = .refused .secondHost

/-- R129, R105: with one host on the instance every step completes. That it takes exactly the oldest event
from the port, and leaves the host, the parameters, the later events and the earlier responses as they
were, is the model's form of the schedule and of the responses (log entries 1 and 2); for a reset step, that
these stay is the model's reading (log entry 7). -/
def Obligations.OneHostStepsAlwaysComplete : Prop :=
  ∀ s : State, oneHost s = true →
    ∃ t, step s = .next t ∧ oneHost t = true ∧ t.port = s.port.tail ∧ t.params = s.params ∧
      t.host = s.host ∧ ∃ r : List Word, t.responses = s.responses ++ r ∧ r.length ≤ 1

/-- Placing a word of the opcode table as the host's next access and stepping runs the instruction that the
decoder reads from it, for command codes and transactions alike (R56, R64; log entries 1 and 10). -/
def Obligations.PlacedWordRunsItsInstruction : Prop :=
  ∀ (s : State) (nbits w : Nat) (i : Instr), decodeTableWord nbits w = some i →
    step (s.withFetchWord nbits w) = exec i s

/-- R30, I9: two states that differ at most in OUTBUF bytes at or beyond OUTLEN stay so for any number of
steps: the same outcomes, the same returned values, the same registers. Stale bytes are never observable. -/
def Obligations.StaleOutputBytesAreNeverObservable : Prop :=
  ∀ (n : Nat) (s t : State), SameVisible s t →
    SameVisibleOutcome (core.run n s) (core.run n t)

/-! ### Encoding -/

/-- Decoding the encoding of every well-formed instruction gives it back, at every operand value. -/
def Obligations.EncodeThenDecodeIsIdentity : Prop :=
  ∀ i : Instr, i.wellFormed = true → decode (encode i) = i

/-- R58, R61: every command code and every one of the 2^77 transaction words decodes to a well-formed
instruction, and encoding that instruction gives the word back: no bit is dropped. -/
def Obligations.DecodeThenEncodeIsIdentity : Prop :=
  ∀ w : CodeWord, (decode w).wellFormed = true ∧ encode (decode w) = w

/-- R57, R58: the opcode map of CODE, and the 252 illegal codes. -/
def Obligations.CommandCodesDecodeAsTheMapSays : Prop :=
  decode (.cmd8 0x01#8) = .login ∧ decode (.cmd8 0x02#8) = .setBlock ∧
  decode (.cmd8 0x03#8) = .position ∧ decode (.cmd8 0x04#8) = .message ∧
  (∀ c : Byte, c.toNat = 0 ∨ 0x05 ≤ c.toNat → decode (.cmd8 c) = .illegal c) ∧
  ((List.range 256).filter fun n => decode (.cmd8 (BitVec.ofNat 8 n)) ==
    .illegal (BitVec.ofNat 8 n)).length = 252

/-- R61: WE is bit 76, ADDR bits 75:64 and DATA bits 63:0, whatever the fields' values; every one of the 2^77
words has its effect and none is illegal, a read returning one 64-bit response and a write none; and a
read's DATA is ignored. -/
def Obligations.TransactionFieldsDecode : Prop :=
  (∀ (a : HostAddr) (d : Word),
    decode (.hostTx (BitVec.ofNat 77 (a.toNat * 2 ^ 64 + d.toNat))) = .rd a d ∧
    decode (.hostTx (BitVec.ofNat 77 (2 ^ 76 + a.toNat * 2 ^ 64 + d.toNat))) = .wr a d) ∧
  (∀ (tx : HostTx) (s : State), ∃ (t : State) (r : List Word), exec (decode (.hostTx tx)) s = .next t ∧
    t.responses = s.responses ++ r ∧ r.length = if tx.getLsbD 76 then 0 else 1) ∧
  (∀ (a : HostAddr) (d e : Word) (s : State), exec (.rd a d) s = exec (.rd a e) s)

/-- Words written out from the spec's encodings and listings decode to the instructions they stand for:
command codes (R57), `1:012:3FF8000000000000` and `0:002:0000000000000000` (R68, R69),
`1:00A:FFFFFFFFFFFFFFFB` (program P2). The last two clauses, that a number with bits beyond its format is
rejected, are the model's choice (log entry 10). -/
def Obligations.SpecWordsDecode : Prop :=
  decodeTableWord 8 0x02 = some .setBlock ∧ decodeTableWord 8 0xFF = some (.illegal 0xFF#8) ∧
  decodeTableWord 80 0x10123FF8000000000000 = some (.wr 0x012#12 0x3FF8000000000000#64) ∧
  decodeTableWord 80 0x00020000000000000000 = some (.rd 0x002#12 0#64) ∧
  decodeTableWord 80 0x100AFFFFFFFFFFFFFFFB = some (.wr 0x00A#12 0xFFFFFFFFFFFFFFFB#64) ∧
  decodeTableWord 8 0x102 = none ∧ decodeTableWord 80 0x20000000000000000000 = none

/-- The decoder agrees with the opcode table's masks and matches: a word is accepted by the row of its own
instruction's mnemonic and by no other; a word that no row accepts is an ILLEGAL (R58). -/
def Obligations.DecoderAgreesWithTheOpcodeTable : Prop :=
  ∀ w : CodeWord,
    (∀ row ∈ opcodeRows, row.accepts w = true ↔ row.mnemonic = (decode w).mnemonic) ∧
    ((∀ row ∈ opcodeRows, row.accepts w = false) ↔ (decode w).mnemonic = "ILLEGAL")

/-! ### Host access -/

/-- R19, R36: each mapped address names exactly one register, every register has its address, and the
unmapped addresses are those of R19's list. -/
def Obligations.RegisterMapNamesEachRegisterOnce : Prop :=
  (∀ r : HostReg, regAt (addrOf r) = some r) ∧
  (∀ (a : HostAddr) (r : HostReg), regAt a = some r → addrOf r = a) ∧
  (∀ a : HostAddr, regAt a = none ↔ unmappedAddr a = true) ∧
  (∀ a : HostAddr, (∃ r : OperandReg, regAt a = some (.operand r)) ↔ operandAddr a = true)

/-- R75: a read of every mapped register other than OUT[i] returns its value zero-extended to 64 bits
(STATUS's reserved bits as 0) and changes nothing; the word's data bits are ignored. -/
def Obligations.ReadReturnsTheRegister : Prop :=
  ∀ (s : State) (d : Word),
    exec (.rd 0x000#12 d) s = .next { s with responses := s.responses ++ [s.cmd.setWidth 64] } ∧
    exec (.rd 0x001#12 d) s
      = .next { s with responses := s.responses ++ [(s.status &&& 0x07#8).setWidth 64] } ∧
    exec (.rd 0x002#12 d) s = .next { s with responses := s.responses ++ [s.outlen.setWidth 64] } ∧
    exec (.rd 0x008#12 d) s
      = .next { s with responses := s.responses ++ [s.operands.sbx.setWidth 64] } ∧
    exec (.rd 0x009#12 d) s
      = .next { s with responses := s.responses ++ [s.operands.sby.setWidth 64] } ∧
    exec (.rd 0x00A#12 d) s
      = .next { s with responses := s.responses ++ [s.operands.sbz.setWidth 64] } ∧
    exec (.rd 0x00B#12 d) s
      = .next { s with responses := s.responses ++ [s.operands.mode.setWidth 64] } ∧
    exec (.rd 0x00C#12 d) s
      = .next { s with responses := s.responses ++ [s.operands.btype.setWidth 64] } ∧
    exec (.rd 0x010#12 d) s = .next { s with responses := s.responses ++ [s.operands.px] } ∧
    exec (.rd 0x011#12 d) s = .next { s with responses := s.responses ++ [s.operands.py] } ∧
    exec (.rd 0x012#12 d) s = .next { s with responses := s.responses ++ [s.operands.pz] } ∧
    exec (.rd 0x013#12 d) s
      = .next { s with responses := s.responses ++ [s.operands.yaw.setWidth 64] } ∧
    exec (.rd 0x014#12 d) s
      = .next { s with responses := s.responses ++ [s.operands.pitch.setWidth 64] } ∧
    exec (.rd 0x018#12 d) s
      = .next { s with responses := s.responses ++ [s.operands.lena.setWidth 64] } ∧
    exec (.rd 0x019#12 d) s
      = .next { s with responses := s.responses ++ [s.operands.lenb.setWidth 64] } ∧
    (∀ i : Fin 64, exec (.rd (BitVec.ofNat 12 (0x100 + i.val)) d) s
      = .next { s with responses := s.responses ++ [s.operands.stra[i].setWidth 64] }) ∧
    (∀ i : Fin 64, exec (.rd (BitVec.ofNat 12 (0x140 + i.val)) d) s
      = .next { s with responses := s.responses ++ [s.operands.strb[i].setWidth 64] })

/-- R74: a read of OUT[i], at 0x200 + i, returns OUTBUF[i] below OUTLEN and 0 at or beyond it, and changes
nothing. -/
def Obligations.ReadOfOutIsHiddenBeyondOutlen : Prop :=
  ∀ (s : State) (d : Word) (i : Fin 131),
    exec (.rd (BitVec.ofNat 12 (0x200 + i.val)) d) s = .next { s with responses := s.responses ++
      [if i.val < s.outlen.toNat then s.outbuf[i].setWidth 64 else 0#64] }

/-- R76: an access to an unmapped address raises BADACC and changes nothing else; a read returns 0. -/
def Obligations.UnmappedAccessRaisesBadacc : Prop :=
  ∀ (s : State) (a : HostAddr) (d : Word), unmappedAddr a = true →
    exec (.rd a d) s
      = .next { s with status := s.status ||| 0x04#8, responses := s.responses ++ [0#64] } ∧
    exec (.wr a d) s = .next { s with status := s.status ||| 0x04#8 }

/-- R73: a write to OUTLEN or OUT[i] raises BADACC and changes nothing else, whatever the data. -/
def Obligations.ReadOnlyWriteRaisesBadacc : Prop :=
  ∀ (s : State) (a : HostAddr) (d : Word),
    a = 0x002#12 ∨ (0x200 ≤ a.toNat ∧ a.toNat ≤ 0x282) →
      exec (.wr a d) s = .next { s with status := s.status ||| 0x04#8 }

/-- R72: a write to STATUS clears each of bits 2:0 whose data bit is 1, sets none, ignores data[63:3] and
changes nothing else. -/
def Obligations.StatusWriteClearsSelectedBits : Prop :=
  ∀ (s : State) (d : Word),
    ∃ v : Byte, exec (.wr 0x001#12 d) s = .next { s with status := v } ∧
      ∀ j : Nat, v.getLsbD j = (s.status.getLsbD j && !(decide (j < 3) && d.getLsbD j))

/-- R70: a write to an RW operand register or string element stores the low bits of the data at the
register's width, and changes nothing else: no command starts, OUTBUF and STATUS stay. An element written
at or beyond the declared length is ignored by every command while that length stands. -/
def Obligations.OperandWriteStoresLowBits : Prop :=
  ∀ (s : State) (d : Word),
    exec (.wr 0x008#12 d) s
      = .next { s with operands := { s.operands with sbx := d.setWidth 16 } } ∧
    exec (.wr 0x009#12 d) s
      = .next { s with operands := { s.operands with sby := d.setWidth 16 } } ∧
    exec (.wr 0x00A#12 d) s
      = .next { s with operands := { s.operands with sbz := d.setWidth 16 } } ∧
    exec (.wr 0x00B#12 d) s
      = .next { s with operands := { s.operands with mode := d.setWidth 8 } } ∧
    exec (.wr 0x00C#12 d) s
      = .next { s with operands := { s.operands with btype := d.setWidth 8 } } ∧
    exec (.wr 0x010#12 d) s = .next { s with operands := { s.operands with px := d } } ∧
    exec (.wr 0x011#12 d) s = .next { s with operands := { s.operands with py := d } } ∧
    exec (.wr 0x012#12 d) s = .next { s with operands := { s.operands with pz := d } } ∧
    exec (.wr 0x013#12 d) s
      = .next { s with operands := { s.operands with yaw := d.setWidth 8 } } ∧
    exec (.wr 0x014#12 d) s
      = .next { s with operands := { s.operands with pitch := d.setWidth 8 } } ∧
    exec (.wr 0x018#12 d) s
      = .next { s with operands := { s.operands with lena := d.setWidth 16 } } ∧
    exec (.wr 0x019#12 d) s
      = .next { s with operands := { s.operands with lenb := d.setWidth 16 } } ∧
    (∀ i : Fin 64, exec (.wr (BitVec.ofNat 12 (0x100 + i.val)) d) s = .next
      { s with operands := { s.operands with stra := s.operands.stra.set i (d.setWidth 16) } }) ∧
    (∀ i : Fin 64, exec (.wr (BitVec.ofNat 12 (0x140 + i.val)) d) s = .next
      { s with operands := { s.operands with strb := s.operands.strb.set i (d.setWidth 16) } }) ∧
    (∀ (i : Fin 64) (j : Instr), j ∈ [Instr.login, .setBlock, .position, .message] →
      (s.operands.lena.toNat ≤ i.val → ∃ t u v, exec (.wr (BitVec.ofNat 12 (0x100 + i.val)) d) s = .next t ∧
        exec j s = .next u ∧ exec j t = .next v ∧ visibleOut v = visibleOut u) ∧
      (s.operands.lenb.toNat ≤ i.val → ∃ t u v, exec (.wr (BitVec.ofNat 12 (0x140 + i.val)) d) s = .next t ∧
        exec j s = .next u ∧ exec j t = .next v ∧ visibleOut v = visibleOut u))

/-- R77: a read after a write to the same RW register returns the data's low bits at the register's width;
a read of any other register returns what it did before; the second of two writes stands. -/
def Obligations.ReadAfterWriteReturnsTheWrite : Prop :=
  ∀ (s : State) (a : HostAddr) (d : Word), operandAddr a = true →
    ∃ t, exec (.wr a d) s = .next t ∧
      (∀ e : Word, exec (.rd a e) t = .next { t with
        responses := s.responses ++ [BitVec.ofNat 64 (d.toNat % 2 ^ addrWidth a)] }) ∧
      (∀ (b : HostAddr) (e : Word), b ≠ a → unmappedAddr b = false → ∃ v : Word,
        exec (.rd b e) s = .next { s with responses := s.responses ++ [v] } ∧
        exec (.rd b e) t = .next { t with responses := s.responses ++ [v] }) ∧
      (∀ e : Word, exec (.wr a e) t = exec (.wr a e) s)

/-- R44: a read of a mapped register has no side effect, and a second read returns the same value. -/
def Obligations.ReadsAreIdempotent : Prop :=
  ∀ (s : State) (a : HostAddr) (d e : Word), unmappedAddr a = false →
    ∃ (v : Word) (t : State), exec (.rd a d) s = .next t ∧
      t = { s with responses := s.responses ++ [v] } ∧
      exec (.rd a e) t = .next { s with responses := s.responses ++ [v, v] }

/-- R71, R56, R64: a host write to CMD is the command its data byte decodes to; data[63:8] never matters; and
each of the pseudo-instructions LOGIN, SETBLOCK, POSITION and MESSAGE runs its command. -/
def Obligations.CmdWriteRunsTheCodeInItsLowByte : Prop :=
  (∀ (s : State) (d : Word), exec (.wr 0x000#12 d) s = exec (decode (.cmd8 (d.extractLsb' 0 8))) s) ∧
  ∀ s : State,
    execAll Pseudo.login.expand s = exec .login s ∧
    execAll Pseudo.setBlock.expand s = exec .setBlock s ∧
    execAll Pseudo.position.expand s = exec .position s ∧
    execAll Pseudo.message.expand s = exec .message s

/-- R20: a write to CMD, of a legal or an illegal code, leaves that code in it and a read returns it
zero-extended; no other access changes CMD, and after reset it reads 0. -/
def Obligations.CmdReadsBackTheLastCode : Prop :=
  (∀ (s : State) (d : Word), ∃ t, exec (.wr 0x000#12 d) s = .next t ∧ t.cmd = d.extractLsb' 0 8 ∧
    ∀ e : Word, exec (.rd 0x000#12 e) t = .next { t with
      responses := t.responses ++ [BitVec.ofNat 64 (d.toNat % 256)] }) ∧
  (∀ (s : State) (i : Instr), issuedCode i = none → ∃ t, exec i s = .next t ∧ t.cmd = s.cmd) ∧
  State.reset.cmd = 0#8

/-- R21, R106, R107, R110: what sets and what clears each STATUS bit, over every instruction. DONE is set by
a legal code and cleared by an illegal one or a STATUS write; ILLCMD is set by an illegal code alone and
BADACC by a bad access alone, both kept until a STATUS write clears them; bits 7:3 never change. -/
def Obligations.StatusBitsChangeOnlyAsListed : Prop :=
  ∀ (s : State) (i : Instr), i.wellFormed = true →
    ∃ t, exec i s = .next t ∧
      (∀ c : Byte, issuedCode i = some c →
        t.status.getLsbD 0 = isCommandCode c ∧
        t.status.getLsbD 1 = (s.status.getLsbD 1 || !isCommandCode c)) ∧
      (issuedCode i = none →
        t.status.getLsbD 0 = (s.status.getLsbD 0 && !clearsStatusBit i 0) ∧
        t.status.getLsbD 1 = (s.status.getLsbD 1 && !clearsStatusBit i 1)) ∧
      t.status.getLsbD 2 = (isBadAccess i || (s.status.getLsbD 2 && !clearsStatusBit i 2)) ∧
      ∀ j : Nat, 3 ≤ j → t.status.getLsbD j = s.status.getLsbD j

/-- R31: only a host write to an operand address changes an operand register or string buffer, and such a
write changes nothing else; a legal code changes CMD, OUTBUF, OUTLEN and DONE alone, and an illegal one
CMD, OUTLEN, DONE and ILLCMD alone. -/
def Obligations.OnlyOperandWritesChangeOperands : Prop :=
  ∀ (s : State) (i : Instr), i.wellFormed = true → ∃ t, exec i s = .next t ∧
    ((∀ (a : HostAddr) (d : Word), i = .wr a d → operandAddr a = false) →
      t.operands = s.operands) ∧
    (∀ (a : HostAddr) (d : Word), i = .wr a d → operandAddr a = true →
      t = { s with operands := t.operands }) ∧
    (∀ c : Byte, issuedCode i = some c → isCommandCode c = true →
      t = { s with cmd := c, outbuf := t.outbuf, outlen := t.outlen, status := s.status ||| 0x01#8 }) ∧
    (∀ c : Byte, issuedCode i = some c → isCommandCode c = false →
      t = { s with cmd := c, outlen := 0#8, status := (s.status ||| 0x02#8) &&& 0xFE#8 })

/-- R105, R61: every instruction completes from every state (no trap, no stall, no refusal); a read returns
exactly one 64-bit response and nothing else returns any. The parameters, the host, the port and the
responses are the model's own fields (log entries 1, 2, 3 and 8), and the first three stay. -/
def Obligations.EveryInstructionCompletes : Prop :=
  ∀ (s : State) (i : Instr), ∃ (t : State) (r : List Word), exec i s = .next t ∧
    t.responses = s.responses ++ r ∧
    r.length = (match i with | .rd _ _ => 1 | _ => 0) ∧
    t.params = s.params ∧ t.host = s.host ∧ t.port = s.port

/-! ### Datapath primitives -/

/-- R78: a code unit below 0x80 maps to itself, every other one to NONASCII_BYTE. -/
def Obligations.AsciiMapperMapsAsListed : Prop :=
  ∀ (n : Byte) (c : CodeUnit),
    (c.toNat < 0x80 → (asc n c).toNat = c.toNat) ∧ (0x80 ≤ c.toNat → asc n c = n)

/-- R79, R80: the slot has 64 bytes; byte k is the mapped code unit k below min(LEN, 64) and 0x20 from
there on. -/
def Obligations.SlotIsMappedTextThenSpaces : Prop :=
  ∀ (n : Byte) (buf : Vector CodeUnit 64) (len : Nat),
    (slot n buf len).length = 64 ∧
    ∀ k : Fin 64, (slot n buf len)[k.val]? =
      some (if k.val < min len 64 then
        (if buf[k].toNat < 0x80 then buf[k].extractLsb' 0 8 else n) else 0x20#8)

/-- R81: the laws (a) to (e) of the padder. -/
def Obligations.PadderLaws : Prop :=
  ∀ (n : Byte) (buf : Vector CodeUnit 64) (len : Nat),
    (slot n buf len).length = 64 ∧
    (len ≤ 64 → (∀ k : Fin 64, k.val < len → buf[k].toNat < 0x80) →
      ∀ k : Fin 64, (slot n buf len)[k.val]? =
        some (if k.val < len then buf[k].extractLsb' 0 8 else 0x20#8)) ∧
    (64 < len → slot n buf len = slot n buf 64) ∧
    (∀ (buf' : Vector CodeUnit 64) (len' : Nat), len ≤ len' → len' ≤ 64 →
      (∀ k : Fin 64, k.val < len → buf'[k] = buf[k]) →
      (∀ k : Fin 64, len ≤ k.val → k.val < len' → buf'[k] = 0x20#16) →
      slot n buf' len' = slot n buf len) ∧
    slot n buf 0 = List.replicate 64 0x20#8

/-- R82: truncating a text to 64 code units before the padder changes no byte of the slot. -/
def Obligations.MessageTruncationLaw : Prop :=
  ∀ (n : Byte) (buf : Vector CodeUnit 64) (len : Nat), slot n buf (min len 64) = slot n buf len

/-- R83: the datum of a binary64 pattern by its sign, exponent and fraction fields, in units of 2^-1074; the
encoding is the spec's general knowledge G2 (log entry 11). -/
def Obligations.Binary64PatternValues : Prop :=
  ∀ (neg : Bool) (e f : Nat), e < 2048 → f < 2 ^ 52 →
    f64 (BitVec.ofNat 64 ((if neg then 2 ^ 63 else 0) + e * 2 ^ 52 + f)) =
      if e = 2047 then (if f = 0 then .inf neg else .nan)
      else if e = 0 then .fin neg f
      else .fin neg ((2 ^ 52 + f) * 2 ^ (e - 1))

/-- R84: C121 is exactly 1362338887279575 / 2^50, the written decimal, and the binary64 value nearest 1.21;
32 times it rounds to 39 under both tie rules and is not 38.72. -/
def Obligations.EyeHeightOffsetIsNearest121 : Prop :=
  c121 = f64 0x3FF35C28F5C28F5C#64 ∧ c121 = .fin false (1362338887279575 * 2 ^ 1024) ∧
  c121.units * 10 ^ 50 = 120999999999999996447286321199499070644378662109375 * 2 ^ 1074 ∧
  (∀ b : Word, (f64 b).isFinite = true →
    (100 * c121.units - 121 * 2 ^ 1074).natAbs ≤ (100 * (f64 b).units - 121 * 2 ^ 1074).natAbs) ∧
  100 * (32 * c121.units) ≠ 3872 * 2 ^ 1074 ∧
  roundInt .even (32 * c121.units) = 39 ∧ roundInt .away (32 * c121.units) = 39

/-- R14's addRNE64 on finite operands, as IEEE 754 defines it (G2, log entry 11): a finite result is the
value of a pattern, no finite pattern's value is nearer the exact sum, and of two equally near the result
is the one whose last significand bit is 0; a sum that rounds to 2^1024 or beyond is the infinity of its
sign; an exact zero sum of operands that are not both negative zeros is +0. -/
def Obligations.AdditionRoundsToNearestEven : Prop :=
  ∀ a b : Word, (f64 a).isFinite = true → (f64 b).isFinite = true →
    let x := (f64 a).units + (f64 b).units
    let r := addRNE64 (f64 a) (f64 b)
    (r.isFinite = true → x.natAbs < 2 ^ 2098 - 2 ^ 2044 ∧ ∃ c : Word, f64 c = r ∧
      ∀ d : Word, (f64 d).isFinite = true →
        (r.units - x).natAbs ≤ ((f64 d).units - x).natAbs ∧
        ((r.units - x).natAbs = ((f64 d).units - x).natAbs → (f64 d).units ≠ r.units →
          c.getLsbD 0 = false)) ∧
    (r.isFinite = false → 2 ^ 2098 - 2 ^ 2044 ≤ x.natAbs ∧ r = .inf (decide (x < 0))) ∧
    (x = 0 → r = .fin (a.getLsbD 63 && b.getLsbD 63) 0)

/-- R85: the z axis alone gets the offset, added as addRNE64; the corner cases R85 lists, among them that the
offset is absorbed from 2^54 on, but for -2^54. -/
def Obligations.ZScalerCornerCases : Prop :=
  (∀ v : F64, scaleZ v = addRNE64 v c121) ∧
  scaleZ (f64 0xBFF35C28F5C28F5C#64) = .fin false 0 ∧
  scaleZ (.fin false 0) = c121 ∧ scaleZ (.fin true 0) = c121 ∧
  scaleZ .nan = .nan ∧ (∀ n : Bool, scaleZ (.inf n) = .inf n) ∧
  (∀ b : Word, (f64 b).isFinite = true → 2 ^ 54 * 2 ^ 1074 ≤ (f64 b).units.natAbs →
    (f64 b).units ≠ -(2 ^ 54 * 2 ^ 1074) → scaleZ (f64 b) = f64 b) ∧
  (∀ b : Word, (f64 b).units = -(2 ^ 54 * 2 ^ 1074) →
    scaleZ (f64 b) = .fin true ((2 ^ 54 - 2) * 2 ^ 1074)) ∧
  64 * (scaleZ (f64 0xBF7C28F5C28F5C00#64)).units = 77 * 2 ^ 1074

/-- R86: the product by 32 of every datum POSITION scales (of a pattern, and of a pattern with the offset
added) is exact below 2^1019 and an infinity of its sign from there on; NaN, infinities and the sign of
zero carry over. -/
def Obligations.TimesThirtyTwoIsExact : Prop :=
  ∀ (b : Word) (t : F64), t = f64 b ∨ t = scaleZ (f64 b) →
    (t = .nan → times32 t = .nan) ∧ (∀ n : Bool, t = .inf n → times32 t = .inf n) ∧
    (∀ (n : Bool) (m : Nat), t = .fin n m →
      (m < 2 ^ 1019 * 2 ^ 1074 → times32 t = .fin n (32 * m)) ∧
      (2 ^ 1019 * 2 ^ 1074 ≤ m → times32 t = .inf n))

/-- R87: roundInt gives an integer within one half of the value; at exactly one half, the even one (EVEN)
or the one farther from zero (AWAY). Values are in units of 2^-1074. -/
def Obligations.RoundIntIsNearestWithTieRule : Prop :=
  ∀ (ties : RoundTies) (s : Int),
    2 * (roundInt ties s * 2 ^ 1074 - s).natAbs ≤ 2 ^ 1074 ∧
    (2 * (roundInt ties s * 2 ^ 1074 - s).natAbs = 2 ^ 1074 →
      match ties with
      | .even => roundInt ties s % 2 = 0
      | .away => s.natAbs < (roundInt ties s * 2 ^ 1074).natAbs)

/-- R88: wrap16 is the value modulo 2^16, for every integer. -/
def Obligations.Wrap16IsModulo : Prop :=
  ∀ r : Int, ((wrap16 r).toNat : Int) = r % 65536

/-- R89, R90: the field of one axis. Where 32 times the value is finite it is the rounded value modulo 2^16,
however large; else it is NONFINITE_I16 of its kind, for any values of that parameter, overflow of the
product included. It holds of each datum POSITION converts. -/
def Obligations.FixedPointFieldOfOneAxis : Prop :=
  ∀ (p : Params) (b : Word) (t : F64), t = f64 b ∨ t = scaleZ (f64 b) →
    fixq p t = match t with
      | .nan => p.nonfiniteNaN
      | .inf n => if n then p.nonfiniteNegInf else p.nonfinitePosInf
      | .fin n m =>
        if m < 2 ^ 1019 * 2 ^ 1074 then wrap16 (roundInt p.roundTies (32 * (F64.fin n m).units))
        else if n then p.nonfiniteNegInf else p.nonfinitePosInf

/-- R91: be16 puts the most significant byte first. -/
def Obligations.ByteOrderIsBigEndian : Prop :=
  ∀ v : BitVec 16, be16 v = [BitVec.ofNat 8 (v.toNat / 256), BitVec.ofNat 8 (v.toNat % 256)]

/-- R92: the packer puts the bytes at offsets 0 to len-1 in order, with OUTLEN the length, and changes no
register. -/
def Obligations.PackerPlacesFieldsInOrder : Prop :=
  ∀ (s : State) (p : List Byte), p.length ≤ 131 →
    pack p s = { s with outbuf := (pack p s).outbuf, outlen := (pack p s).outlen } ∧
    (pack p s).outlen.toNat = p.length ∧
    ∀ k : Fin 131, k.val < p.length → p[k.val]? = some (pack p s).outbuf[k]

/-! ### Commands -/

/-- R97, R96: LOGIN, code 0x01, builds the 131-byte Identification packet, sets DONE and leaves ILLCMD,
BADACC, every operand register and string buffer and everything else as it was. -/
def Obligations.LoginBuildsTheIdentificationPacket : Prop :=
  decode (.cmd8 0x01#8) = .login ∧ ∀ s : State, ∃ t, exec .login s = .next t ∧
    t = { s with cmd := 0x01#8, status := s.status ||| 0x01#8, outlen := 131#8, outbuf := t.outbuf } ∧
    t.outbuf[0] = 0x00#8 ∧ t.outbuf[1] = 0x07#8 ∧
    (∀ k : Fin 64, t.outbuf[2 + k.val] =
      if k.val < min s.operands.lena.toNat 64 then
        (if s.operands.stra[k].toNat < 0x80 then s.operands.stra[k].extractLsb' 0 8
          else s.params.nonasciiByte)
      else 0x20#8) ∧
    (∀ k : Fin 64, t.outbuf[66 + k.val] =
      if k.val < min s.operands.lenb.toNat 64 then
        (if s.operands.strb[k].toNat < 0x80 then s.operands.strb[k].extractLsb' 0 8
          else s.params.nonasciiByte)
      else 0x20#8) ∧
    t.outbuf[130] = 0x00#8

/-- R98, R96: SETBLOCK, code 0x02, builds the 9-byte SetBlock packet, x, z, y on the wire and each
big-endian, mode and block type verbatim whatever their values, for every packet ID. -/
def Obligations.SetBlockBuildsItsPacket : Prop :=
  decode (.cmd8 0x02#8) = .setBlock ∧ ∀ s : State, ∃ t, exec .setBlock s = .next t ∧
    t = { s with cmd := 0x02#8, status := s.status ||| 0x01#8, outlen := 9#8, outbuf := t.outbuf } ∧
    t.outbuf[0] = s.params.pktidSetBlock ∧
    t.outbuf[1] = s.operands.sbx.extractLsb' 8 8 ∧ t.outbuf[2] = s.operands.sbx.extractLsb' 0 8 ∧
    t.outbuf[3] = s.operands.sbz.extractLsb' 8 8 ∧ t.outbuf[4] = s.operands.sbz.extractLsb' 0 8 ∧
    t.outbuf[5] = s.operands.sby.extractLsb' 8 8 ∧ t.outbuf[6] = s.operands.sby.extractLsb' 0 8 ∧
    t.outbuf[7] = s.operands.mode ∧ t.outbuf[8] = s.operands.btype

/-- R99, R96: POSITION, code 0x03, builds the 10-byte PositionUpdate packet: the fields of x, of z with the
offset, and of y, each big-endian, then yaw and pitch verbatim. -/
def Obligations.PositionBuildsItsPacket : Prop :=
  decode (.cmd8 0x03#8) = .position ∧ ∀ s : State, ∃ t, exec .position s = .next t ∧
    t = { s with cmd := 0x03#8, status := s.status ||| 0x01#8, outlen := 10#8, outbuf := t.outbuf } ∧
    t.outbuf[0] = s.params.pktidPosition ∧ t.outbuf[1] = 0xFF#8 ∧
    t.outbuf[2] = (fixq s.params (f64 s.operands.px)).extractLsb' 8 8 ∧
    t.outbuf[3] = (fixq s.params (f64 s.operands.px)).extractLsb' 0 8 ∧
    t.outbuf[4] = (fixq s.params (addRNE64 (f64 s.operands.pz) c121)).extractLsb' 8 8 ∧
    t.outbuf[5] = (fixq s.params (addRNE64 (f64 s.operands.pz) c121)).extractLsb' 0 8 ∧
    t.outbuf[6] = (fixq s.params (f64 s.operands.py)).extractLsb' 8 8 ∧
    t.outbuf[7] = (fixq s.params (f64 s.operands.py)).extractLsb' 0 8 ∧
    t.outbuf[8] = s.operands.yaw ∧ t.outbuf[9] = s.operands.pitch

/-- R100, R96: MESSAGE, code 0x04, builds the 66-byte Message packet from string A truncated to 64 code
units; string B has no effect. -/
def Obligations.MessageBuildsItsPacket : Prop :=
  decode (.cmd8 0x04#8) = .message ∧ ∀ s : State, ∃ t, exec .message s = .next t ∧
    t = { s with cmd := 0x04#8, status := s.status ||| 0x01#8, outlen := 66#8, outbuf := t.outbuf } ∧
    t.outbuf[0] = s.params.pktidMessage ∧ t.outbuf[1] = 0xFF#8 ∧
    (∀ k : Fin 64, t.outbuf[2 + k.val] =
      if k.val < min s.operands.lena.toNat 64 then
        (if s.operands.stra[k].toNat < 0x80 then s.operands.stra[k].extractLsb' 0 8
          else s.params.nonasciiByte)
      else 0x20#8)

/-- R101, R106: every one of the 252 illegal codes raises ILLCMD, clears DONE, makes OUTLEN 0 (so every OUT[i]
reads 0), stays readable in CMD, and changes nothing else the host can see. -/
def Obligations.IllegalCodeRaisesIllcmd : Prop :=
  ∀ (s : State) (c : Byte), c.toNat = 0 ∨ 0x05 ≤ c.toNat →
    decode (.cmd8 c) = .illegal c ∧ ∃ t, exec (.illegal c) s = .next t ∧
      t = { s with cmd := c, outlen := 0#8, status := t.status, outbuf := t.outbuf } ∧
      t.status.getLsbD 0 = false ∧ t.status.getLsbD 1 = true ∧
      (∀ j : Nat, 2 ≤ j → t.status.getLsbD j = s.status.getLsbD j) ∧
      ∀ (k : Fin 131) (d : Word), exec (.rd (BitVec.ofNat 12 (0x200 + k.val)) d) t
        = .next { t with responses := s.responses ++ [0#64] }

/-- The OUTBUF bytes at offsets from the packet's length on keep their earlier values after a command, and
all of them after an illegal code. R96 allows any value there: this is the model's choice (log entry 6). -/
def Obligations.BytesBeyondThePacketAreKept : Prop :=
  ∀ (s : State) (i : Instr) (c : Byte), i.wellFormed = true → issuedCode i = some c →
    ∃ t, exec i s = .next t ∧ t.outlen.toNat = packetLength c ∧
      ∀ k : Fin 131, packetLength c ≤ k.val → t.outbuf[k] = s.outbuf[k]

/-- R104: issuing the same code again, with no operand write between, leaves the same packet bytes, OUTLEN and
DONE, for illegal codes too. That the whole state is the same includes the OUTBUF bytes at and beyond
OUTLEN, which R96 leaves open: that those stay is the model's choice (log entry 6). -/
def Obligations.CommandsAreIdempotent : Prop :=
  ∀ (s : State) (i : Instr), i.wellFormed = true → issuedCode i ≠ none →
    ∃ t, exec i s = .next t ∧ exec i t = .next t

/-- R33, R55, R59: the packet a code builds depends on nothing but the operand registers and parameters that
R59 lists for the code: two states that agree on those get the same packet, whatever else differs. -/
def Obligations.PacketDependsOnlyOnListedOperands : Prop :=
  ∀ (s t : State) (i : Instr) (c : Byte), i.wellFormed = true → issuedCode i = some c →
    sameParamsFor c s.params t.params →
    (∀ r : OperandReg, codeReads c r = true →
      readOperand s.operands r = readOperand t.operands r) →
    ∃ s' t', exec i s = .next s' ∧ exec i t = .next t' ∧ s'.outlen = t'.outlen ∧
      visibleOut s' = visibleOut t' ∧ s'.cmd = t'.cmd

/-- R126, R127: no access other than a write to CMD changes the packet that stands in OUTBUF: a host write to
an operand register or string element after the command never does. -/
def Obligations.PacketOutlivesEveryOtherAccess : Prop :=
  ∀ (s : State) (i : Instr), issuedCode i = none →
    ∃ t, exec i s = .next t ∧ t.outlen = s.outlen ∧ t.outbuf = s.outbuf ∧ t.cmd = s.cmd

/-- R67, R54: RDPKT, the read of OUTLEN and then of OUT[0] to OUT[n-1], returns the length and then the bytes of
the packet in wire order, and changes nothing else. -/
def Obligations.ReadoutReturnsThePacket : Prop :=
  ∀ s : State, s.outlen.toNat ≤ 131 →
    execAll (Pseudo.rdpkt s.outlen.toNat).expand s = .next { s with
      responses := s.responses ++
        (s.outlen.setWidth 64 :: (visibleOut s).map (fun b : Byte => b.setWidth 64)) }

/-- R65: LDSTR leaves the text's length (65535 for a longer one) in the length register and its first 64 code
units in the buffer, and changes nothing else. -/
def Obligations.LdstrLoadsTheText : Prop :=
  ∀ (s : State) (x : StringName) (text : List CodeUnit),
    ∃ t, execAll (Pseudo.ldstr x text).expand s = .next t ∧
      match x with
      | .A =>
        t = { s with operands :=
          { s.operands with lena := t.operands.lena, stra := t.operands.stra } } ∧
        t.operands.lena.toNat = min text.length 0xFFFF ∧
        ∀ k : Fin 64, t.operands.stra[k] = text.getD k.val s.operands.stra[k]
      | .B =>
        t = { s with operands :=
          { s.operands with lenb := t.operands.lenb, strb := t.operands.strb } } ∧
        t.operands.lenb.toNat = min text.length 0xFFFF ∧
        ∀ k : Fin 64, t.operands.strb[k] = text.getD k.val s.operands.strb[k]

/-- R65, R100, R80 together: loading any text, of any length, and issuing MESSAGE leaves a 66-byte packet whose
text slot is the first 64 code units mapped to ASCII, padded with spaces. -/
def Obligations.LoadedTextIsSerialized : Prop :=
  ∀ (s : State) (text : List CodeUnit), ∃ t u,
    execAll (Pseudo.ldstr .A text).expand s = .next t ∧ execAll Pseudo.message.expand t = .next u ∧
    visibleOut u = [s.params.pktidMessage, 0xFF#8] ++
      ((text.take 64).map fun c : CodeUnit =>
        if c.toNat < 0x80 then c.extractLsb' 0 8 else s.params.nonasciiByte) ++
      List.replicate (64 - text.length) 0x20#8

/-- R66: the pattern LDF writes is that of the binary64 value nearest the decimal literal: no finite pattern's
value is nearer, and of two equally near it is the one whose last significand bit is 0; LDF leaves it in
PX, PY or PZ and changes nothing else. The rounding is the spec's general knowledge G3 (log entry 11); a
literal that rounds to 2^1024 or beyond is outside the premise (log entry 18), and that a negative literal
that rounds to zero gives -0 is the model's choice (log entry 19). -/
def Obligations.LdfWritesTheNearestPattern : Prop :=
  ∀ (neg : Bool) (digits places : Nat),
    (f64OfDecimal neg digits places).isFinite = true →
    f64 (packF64 (f64OfDecimal neg digits places)) = f64OfDecimal neg digits places ∧
    (∀ b : Word, (f64 b).isFinite = true →
      (10 ^ places * (f64OfDecimal neg digits places).units
          - (if neg then -1 else 1) * (digits * 2 ^ 1074 : Nat)).natAbs
        ≤ (10 ^ places * (f64 b).units
          - (if neg then -1 else 1) * (digits * 2 ^ 1074 : Nat)).natAbs ∧
      ((10 ^ places * (f64OfDecimal neg digits places).units
          - (if neg then -1 else 1) * (digits * 2 ^ 1074 : Nat)).natAbs
        = (10 ^ places * (f64 b).units
          - (if neg then -1 else 1) * (digits * 2 ^ 1074 : Nat)).natAbs →
        (f64 b).units ≠ (f64OfDecimal neg digits places).units →
        (packF64 (f64OfDecimal neg digits places)).getLsbD 0 = false)) ∧
    ∀ s : State,
      execAll (Pseudo.ldf .PX neg digits places).expand s = .next { s with operands :=
        { s.operands with px := packF64 (f64OfDecimal neg digits places) } } ∧
      execAll (Pseudo.ldf .PY neg digits places).expand s = .next { s with operands :=
        { s.operands with py := packF64 (f64OfDecimal neg digits places) } } ∧
      execAll (Pseudo.ldf .PZ neg digits places).expand s = .next { s with operands :=
        { s.operands with pz := packF64 (f64OfDecimal neg digits places) } }

/-- R66, R67: LDC leaves a set-block coordinate whose two's-complement value is the literal's, for each literal
R66 allows, and CLRST clears the three STATUS bits; neither changes anything else. (What LDC does with any
other integer is log entry 20, on which nothing here rests.) -/
def Obligations.LdcAndClrstDoAsListed : Prop :=
  ∀ (s : State),
    (∀ v : Int, -32768 ≤ v → v ≤ 32767 → ∃ w : BitVec 16, w.toInt = v ∧
      execAll (Pseudo.ldc .SBX v).expand s
        = .next { s with operands := { s.operands with sbx := w } } ∧
      execAll (Pseudo.ldc .SBY v).expand s
        = .next { s with operands := { s.operands with sby := w } } ∧
      execAll (Pseudo.ldc .SBZ v).expand s
        = .next { s with operands := { s.operands with sbz := w } }) ∧
    execAll Pseudo.clrst.expand s = .next { s with status := s.status &&& 0xF8#8 }

/-- R124: LOGIN straight after reset gives 0x00, 0x07, 128 spaces and 0x00. -/
def Obligations.LoginFromResetIsTheEmptyLogin : Prop :=
  ∃ t, exec .login State.reset = .next t ∧ t.outlen = 131#8 ∧
    visibleOut t = [0x00#8, 0x07#8] ++ List.replicate 128 0x20#8 ++ [0x00#8]

end
end

