-- ==== Sys2Proof/Laws/Datapath.lean ====
section
/-! SUPPORT. One lemma for each datapath primitive and each packet: its length and its bytes. -/

namespace Sys2Proof.Machine

theorem slot_length (n : Byte) (buf : Vector CodeUnit 64) (len : Nat) :
    (slot n buf len).length = 64 := by
  unfold slot
  exact List.length_ofFn

theorem slot_getElem? (n : Byte) (buf : Vector CodeUnit 64) (len k : Nat) (hk : k < 64) :
    (slot n buf len)[k]? = some (if k < neff len then asc n buf[k] else 0x20#8) := by
  simp only [slot, List.getElem?_ofFn, hk, dif_pos]
  rfl

theorem loginPacket_length (p : Params) (o : Operands) : (loginPacket p o).length = 131 := by
  simp [loginPacket, slot_length]

theorem setBlockPacket_length (p : Params) (o : Operands) : (setBlockPacket p o).length = 9 := rfl

theorem positionPacket_length (p : Params) (o : Operands) : (positionPacket p o).length = 10 := by
  simp [positionPacket, be16]

theorem messagePacket_length (p : Params) (o : Operands) : (messagePacket p o).length = 66 := by
  simp [messagePacket, slot_length]

theorem units_fin (neg : Bool) (mag : Nat) :
    (F64.fin neg mag).units = if neg then -(mag : Int) else mag := rfl

theorem natAbs_units (neg : Bool) (mag : Nat) : (F64.fin neg mag).units.natAbs = mag := by
  cases neg <;> simp [F64.units]

/-- Rounding a quotient moves it by at most one half. -/
theorem rneQuot_near (num den : Nat) (hd : 0 < den) :
    2 * (rneQuot num den * den) ≤ 2 * num + den ∧ 2 * num ≤ 2 * (rneQuot num den * den) + den := by
  have h := Nat.div_add_mod num den
  have hm := Nat.mod_lt num hd
  have e : (num / den + 1) * den = num / den * den + den := by ring
  have c : den * (num / den) = num / den * den := Nat.mul_comm _ _
  unfold rneQuot
  simp only
  split_ifs <;> (try rw [e]) <;> omega

/-- An exact quotient is kept. -/
theorem rneQuot_mul (q den : Nat) (hd : 0 < den) : rneQuot (q * den) den = q := by
  simp [rneQuot, Nat.mul_div_cancel _ hd, hd]

end Sys2Proof.Machine
end

