-- ==== Sys2Proof/Laws/Encoding.lean ====
section
/-! SUPPORT. The three fields of a HOSTTX77 word, put together and taken out again (30_encoding.md R61). -/

namespace Sys2Proof

theorem hostTxWord_toNat (we : Bool) (a : HostAddr) (d : Word) :
    (hostTxWord we a d).toNat = (if we then 2 ^ 76 else 0) + a.toNat * 2 ^ 64 + d.toNat := by
  have := a.isLt
  have := d.isLt
  simp only [hostTxWord, BitVec.toNat_ofNat]
  apply Nat.mod_eq_of_lt
  cases we
  · rw [if_neg Bool.false_ne_true]
    omega
  · rw [if_pos rfl]
    omega

/-- The weights of the WE bit and the ADDR field. -/
theorem txFields_arith (w a d : Nat) (ha : a < 2 ^ 12) (hd : d < 2 ^ 64) :
    (w * 2 ^ 76 + a * 2 ^ 64 + d) / 2 ^ 64 % 2 ^ 12 = a ∧
    (w * 2 ^ 76 + a * 2 ^ 64 + d) / 2 ^ 76 = w ∧
    (w * 2 ^ 76 + a * 2 ^ 64 + d) % 2 ^ 64 = d := by
  omega

theorem hostTxWord_toNat' (we : Bool) (a : HostAddr) (d : Word) :
    (hostTxWord we a d).toNat = we.toNat * 2 ^ 76 + a.toNat * 2 ^ 64 + d.toNat := by
  rw [hostTxWord_toNat]
  cases we <;> rfl

theorem txWE_hostTxWord (we : Bool) (a : HostAddr) (d : Word) : txWE (hostTxWord we a d) = we := by
  rw [txWE, BitVec.getLsbD, hostTxWord_toNat', Nat.testBit_eq_decide_div_mod_eq,
    (txFields_arith _ _ _ a.isLt d.isLt).2.1]
  cases we <;> rfl

theorem txAddr_hostTxWord (we : Bool) (a : HostAddr) (d : Word) :
    txAddr (hostTxWord we a d) = a := by
  apply BitVec.eq_of_toNat_eq
  rw [txAddr, BitVec.extractLsb'_toNat, hostTxWord_toNat', Nat.shiftRight_eq_div_pow,
    (txFields_arith _ _ _ a.isLt d.isLt).1]

theorem txData_hostTxWord (we : Bool) (a : HostAddr) (d : Word) :
    txData (hostTxWord we a d) = d := by
  apply BitVec.eq_of_toNat_eq
  rw [txData, BitVec.extractLsb'_toNat, hostTxWord_toNat', Nat.shiftRight_zero,
    (txFields_arith _ _ _ a.isLt d.isLt).2.2]

end Sys2Proof
end

