-- ==== Sys2Proof/Laws/State.lean ====
section
/-! SUPPORT. One lemma for each field of State under each named update. -/

namespace Sys2Proof.Machine

variable (s : State)

section setCmd
variable (v : Byte)
@[simp] theorem State.setCmd_params : (s.setCmd v).params = s.params := rfl
@[simp] theorem State.setCmd_host : (s.setCmd v).host = s.host := rfl
@[simp] theorem State.setCmd_cmd : (s.setCmd v).cmd = v := rfl
@[simp] theorem State.setCmd_status : (s.setCmd v).status = s.status := rfl
@[simp] theorem State.setCmd_outlen : (s.setCmd v).outlen = s.outlen := rfl
@[simp] theorem State.setCmd_operands : (s.setCmd v).operands = s.operands := rfl
@[simp] theorem State.setCmd_outbuf : (s.setCmd v).outbuf = s.outbuf := rfl
@[simp] theorem State.setCmd_port : (s.setCmd v).port = s.port := rfl
@[simp] theorem State.setCmd_responses : (s.setCmd v).responses = s.responses := rfl
end setCmd

section setStatus
variable (v : Byte)
@[simp] theorem State.setStatus_params : (s.setStatus v).params = s.params := rfl
@[simp] theorem State.setStatus_host : (s.setStatus v).host = s.host := rfl
@[simp] theorem State.setStatus_cmd : (s.setStatus v).cmd = s.cmd := rfl
@[simp] theorem State.setStatus_status : (s.setStatus v).status = v := rfl
@[simp] theorem State.setStatus_outlen : (s.setStatus v).outlen = s.outlen := rfl
@[simp] theorem State.setStatus_operands : (s.setStatus v).operands = s.operands := rfl
@[simp] theorem State.setStatus_outbuf : (s.setStatus v).outbuf = s.outbuf := rfl
@[simp] theorem State.setStatus_port : (s.setStatus v).port = s.port := rfl
@[simp] theorem State.setStatus_responses : (s.setStatus v).responses = s.responses := rfl
end setStatus

section setOutlen
variable (v : Byte)
@[simp] theorem State.setOutlen_params : (s.setOutlen v).params = s.params := rfl
@[simp] theorem State.setOutlen_host : (s.setOutlen v).host = s.host := rfl
@[simp] theorem State.setOutlen_cmd : (s.setOutlen v).cmd = s.cmd := rfl
@[simp] theorem State.setOutlen_status : (s.setOutlen v).status = s.status := rfl
@[simp] theorem State.setOutlen_outlen : (s.setOutlen v).outlen = v := rfl
@[simp] theorem State.setOutlen_operands : (s.setOutlen v).operands = s.operands := rfl
@[simp] theorem State.setOutlen_outbuf : (s.setOutlen v).outbuf = s.outbuf := rfl
@[simp] theorem State.setOutlen_port : (s.setOutlen v).port = s.port := rfl
@[simp] theorem State.setOutlen_responses : (s.setOutlen v).responses = s.responses := rfl
end setOutlen

section setOperands
variable (v : Operands)
@[simp] theorem State.setOperands_params : (s.setOperands v).params = s.params := rfl
@[simp] theorem State.setOperands_host : (s.setOperands v).host = s.host := rfl
@[simp] theorem State.setOperands_cmd : (s.setOperands v).cmd = s.cmd := rfl
@[simp] theorem State.setOperands_status : (s.setOperands v).status = s.status := rfl
@[simp] theorem State.setOperands_outlen : (s.setOperands v).outlen = s.outlen := rfl
@[simp] theorem State.setOperands_operands : (s.setOperands v).operands = v := rfl
@[simp] theorem State.setOperands_outbuf : (s.setOperands v).outbuf = s.outbuf := rfl
@[simp] theorem State.setOperands_port : (s.setOperands v).port = s.port := rfl
@[simp] theorem State.setOperands_responses : (s.setOperands v).responses = s.responses := rfl
end setOperands

section setOutbuf
variable (v : Vector Byte 131)
@[simp] theorem State.setOutbuf_params : (s.setOutbuf v).params = s.params := rfl
@[simp] theorem State.setOutbuf_host : (s.setOutbuf v).host = s.host := rfl
@[simp] theorem State.setOutbuf_cmd : (s.setOutbuf v).cmd = s.cmd := rfl
@[simp] theorem State.setOutbuf_status : (s.setOutbuf v).status = s.status := rfl
@[simp] theorem State.setOutbuf_outlen : (s.setOutbuf v).outlen = s.outlen := rfl
@[simp] theorem State.setOutbuf_operands : (s.setOutbuf v).operands = s.operands := rfl
@[simp] theorem State.setOutbuf_outbuf : (s.setOutbuf v).outbuf = v := rfl
@[simp] theorem State.setOutbuf_port : (s.setOutbuf v).port = s.port := rfl
@[simp] theorem State.setOutbuf_responses : (s.setOutbuf v).responses = s.responses := rfl
end setOutbuf

section setPort
variable (v : List PortEvent)
@[simp] theorem State.setPort_params : (s.setPort v).params = s.params := rfl
@[simp] theorem State.setPort_host : (s.setPort v).host = s.host := rfl
@[simp] theorem State.setPort_cmd : (s.setPort v).cmd = s.cmd := rfl
@[simp] theorem State.setPort_status : (s.setPort v).status = s.status := rfl
@[simp] theorem State.setPort_outlen : (s.setPort v).outlen = s.outlen := rfl
@[simp] theorem State.setPort_operands : (s.setPort v).operands = s.operands := rfl
@[simp] theorem State.setPort_outbuf : (s.setPort v).outbuf = s.outbuf := rfl
@[simp] theorem State.setPort_port : (s.setPort v).port = v := rfl
@[simp] theorem State.setPort_responses : (s.setPort v).responses = s.responses := rfl
end setPort

section respond
variable (v : Word)
@[simp] theorem State.respond_params : (s.respond v).params = s.params := rfl
@[simp] theorem State.respond_host : (s.respond v).host = s.host := rfl
@[simp] theorem State.respond_cmd : (s.respond v).cmd = s.cmd := rfl
@[simp] theorem State.respond_status : (s.respond v).status = s.status := rfl
@[simp] theorem State.respond_outlen : (s.respond v).outlen = s.outlen := rfl
@[simp] theorem State.respond_operands : (s.respond v).operands = s.operands := rfl
@[simp] theorem State.respond_outbuf : (s.respond v).outbuf = s.outbuf := rfl
@[simp] theorem State.respond_port : (s.respond v).port = s.port := rfl
@[simp] theorem State.respond_responses : (s.respond v).responses = s.responses ++ [v] := rfl
end respond

end Sys2Proof.Machine
end

