-- ==== Sys2Proof/Laws/Ops.lean ====
section
/-! SUPPORT. One lemma for each shared operation that says all it does, the fields it changes and those it leaves. -/

namespace Sys2Proof.Machine

/-- Byte `i` of an overlay: the packet's where it reaches, the earlier byte beyond. -/
theorem overlay_get (p : List Byte) (b : Vector Byte 131) (i : Nat) (h : i < 131) :
    (overlay p b)[i] = p.getD i b[i] := by
  simp [overlay]

theorem overlay_get_lt (p : List Byte) (b : Vector Byte 131) (i : Nat) (h : i < 131)
    (hp : i < p.length) : (overlay p b)[i] = p[i] := by
  simp [overlay, List.getD_eq_getElem?_getD, hp]

theorem overlay_get_ge (p : List Byte) (b : Vector Byte 131) (i : Nat) (h : i < 131)
    (hp : p.length ≤ i) : (overlay p b)[i] = b[i] := by
  simp [overlay, List.getD_eq_getElem?_getD, hp]

/-- Packing the same bytes again changes nothing more. -/
theorem overlay_overlay (p : List Byte) (b : Vector Byte 131) :
    overlay p (overlay p b) = overlay p b := by
  ext i hi
  by_cases h : i < p.length
  · rw [overlay_get_lt p _ i hi h, overlay_get_lt p b i hi h]
  · rw [overlay_get_ge p (overlay p b) i hi (by omega)]

theorem raise_eq (e : Event) (s : State) :
    raise e s = { s with status := s.status ||| eventMask e } := rfl

theorem acknowledge_eq (d : Word) (s : State) :
    acknowledge d s = { s with status := s.status &&& ~~~(d.setWidth 8 &&& 0x07#8) } := rfl

theorem storeOperand_eq (r : OperandReg) (d : Word) (s : State) :
    storeOperand r d s = { s with operands := writeOperand s.operands r d } := rfl

theorem pack_eq (p : List Byte) (s : State) :
    pack p s = { s with outbuf := overlay p s.outbuf, outlen := BitVec.ofNat 8 p.length } := by
  simp only [pack, State.setOutbuf, State.setOutlen]

theorem completeCommand_eq (c : Byte) (p : List Byte) (s : State) :
    completeCommand c p s = { s with
      cmd := c
      status := s.status ||| 0x01#8
      outlen := BitVec.ofNat 8 p.length
      outbuf := overlay p s.outbuf } := rfl

theorem illegalCommand_eq (c : Byte) (s : State) :
    illegalCommand c s = { s with
      cmd := c
      outlen := 0#8
      status := (s.status ||| 0x02#8) &&& ~~~0x01#8 } := rfl

theorem applyReset_eq (s : State) :
    applyReset s = { s with
      cmd := 0, status := 0, outlen := 0, operands := Operands.reset
      outbuf := Vector.replicate 131 0 } := rfl

/-- The register map and the addresses are inverse to each other, register by register. -/
theorem regAt_scalar : ∀ r ∈ [HostReg.cmd, .status, .outlen, .operand .sbx, .operand .sby,
    .operand .sbz, .operand .mode, .operand .btype, .operand .px, .operand .py, .operand .pz,
    .operand .yaw, .operand .pitch, .operand .lena, .operand .lenb], regAt (addrOf r) = some r := by
  have h : ([HostReg.cmd, .status, .outlen, .operand .sbx, .operand .sby, .operand .sbz, .operand .mode,
      .operand .btype, .operand .px, .operand .py, .operand .pz, .operand .yaw, .operand .pitch,
      .operand .lena, .operand .lenb].all fun r => decide (regAt (addrOf r) = some r)) = true := by
    decide +kernel
  simpa only [List.all_eq_true, decide_eq_true_eq] using h

theorem regAt_strA (i : Fin 64) :
    regAt (BitVec.ofNat 12 (0x100 + i.val)) = some (.operand (.strA i)) := by
  have hi := i.isLt
  have h : (BitVec.ofNat 12 (0x100 + i.val)).toNat = 0x100 + i.val := by
    simp; omega
  simp only [regAt, h]
  repeat rw [if_neg (by omega)]
  rw [dif_pos (by omega)]
  simp

theorem regAt_strB (i : Fin 64) :
    regAt (BitVec.ofNat 12 (0x140 + i.val)) = some (.operand (.strB i)) := by
  have hi := i.isLt
  have h : (BitVec.ofNat 12 (0x140 + i.val)).toNat = 0x140 + i.val := by
    simp; omega
  simp only [regAt, h]
  repeat rw [if_neg (by omega)]
  rw [dif_neg (by omega), dif_pos (by omega)]
  simp

theorem regAt_out (i : Fin 131) :
    regAt (BitVec.ofNat 12 (0x200 + i.val)) = some (.out i) := by
  have hi := i.isLt
  have h : (BitVec.ofNat 12 (0x200 + i.val)).toNat = 0x200 + i.val := by
    simp; omega
  simp only [regAt, h]
  repeat rw [if_neg (by omega)]
  rw [dif_neg (by omega), dif_neg (by omega), dif_pos (by omega)]
  simp

/-- A register reads back what was written to it, at its width. -/
theorem readOperand_writeOperand_same (o : Operands) (r : OperandReg) (d : Word) :
    readOperand (writeOperand o r d) r = BitVec.ofNat 64 (d.toNat % 2 ^ operandWidth r) := by
  cases r <;> apply BitVec.eq_of_toNat_eq <;>
    simp [readOperand, writeOperand, operandWidth] <;> omega

/-- Every other register reads what it read before. -/
theorem readOperand_writeOperand_other (o : Operands) (r q : OperandReg) (d : Word) (h : q ≠ r) :
    readOperand (writeOperand o r d) q = readOperand o q := by
  cases r <;> cases q <;> simp_all [readOperand, writeOperand]
  all_goals
    rw [Vector.getElem_set, if_neg fun e => h (Fin.ext e.symm)]

/-- The second of two writes to one register stands. -/
theorem writeOperand_writeOperand (o : Operands) (r : OperandReg) (d e : Word) :
    writeOperand (writeOperand o r d) r e = writeOperand o r e := by
  cases r <;> simp [writeOperand]

end Sys2Proof.Machine
end

