-- ==== Sys2Proof/Laws/PerInstr.lean ====
section
/-! SUPPORT. The law of every instruction's encoding against its row of spec/opcode_table.json. -/

namespace Sys2Proof

/-- The encoding of a well-formed instruction is accepted by the table's rows of its own mnemonic, and by no
other row: for ILLEGAL, by none (30_encoding.md R57, R58, R61). -/
def Laws.TableRow.Statement (i : Instr) : Prop :=
  i.wellFormed = true → (opcodeRows.filter fun row => row.accepts (encode i)).map OpcodeRow.mnemonic =
    [i.mnemonic].filter fun m => m != "ILLEGAL"

theorem Laws.TableRow.login : Laws.TableRow.Statement .login := fun _ => by decide +kernel

theorem Laws.TableRow.setBlock : Laws.TableRow.Statement .setBlock := fun _ => by decide +kernel

theorem Laws.TableRow.position : Laws.TableRow.Statement .position := fun _ => by decide +kernel

theorem Laws.TableRow.message : Laws.TableRow.Statement .message := fun _ => by decide +kernel

/-- Bit 76 alone survives the mask of the two transaction rows. -/
theorem hostTxWord_mask (we : Bool) (a : HostAddr) (d : Word) :
    (hostTxWord we a d).toNat &&& 0x10000000000000000000
      = if we then 0x10000000000000000000 else 0 := by
  have h : (hostTxWord we a d).toNat.testBit 76 = we := txWE_hostTxWord we a d
  have hm : (0x10000000000000000000 : Nat) = 2 ^ 76 := by norm_num
  rw [hm, Nat.and_two_pow, h]
  cases we <;> simp

theorem Laws.TableRow.rd (a : HostAddr) (d : Word) : Laws.TableRow.Statement (.rd a d) := by
  intro _
  simp [opcodeRows, OpcodeRow.accepts, encode, hostTxWord_mask, Instr.mnemonic]

theorem Laws.TableRow.wr (a : HostAddr) (d : Word) : Laws.TableRow.Statement (.wr a d) := by
  intro _
  simp [opcodeRows, OpcodeRow.accepts, encode, hostTxWord_mask, Instr.mnemonic]

theorem illegal_rows : ∀ n < 256, (Instr.illegal (BitVec.ofNat 8 n)).wellFormed = true →
    (opcodeRows.filter fun row => row.accepts (.cmd8 (BitVec.ofNat 8 n))) = [] := by
  decide +kernel

theorem Laws.TableRow.illegal (c : Byte) : Laws.TableRow.Statement (.illegal c) := by
  intro h
  have hc : BitVec.ofNat 8 c.toNat = c := by simp
  rw [← hc] at h ⊢
  simp only [encode]
  rw [illegal_rows c.toNat c.isLt h]
  simp [Instr.mnemonic]

end Sys2Proof
end

