-- ==== Sys2Proof/Laws/Step.lean ====
section
/-! SUPPORT. What one step does, by the oldest port event, and what one access can do. -/

namespace Sys2Proof.Machine

theorem step_idle {s : State} (h : s.port = []) : step s = .next s := by
  simp [step, takeEvent, h]

theorem step_reset {s : State} {rest : List PortEvent} (h : s.port = .reset :: rest) :
    step s = .next (applyReset (s.setPort rest)) := by
  simp [step, takeEvent, h]

theorem step_access {s : State} {agent : Nat} {tx : HostTx} {rest : List PortEvent}
    (h : s.port = .access agent tx :: rest) :
    step s = if agent = s.host then exec (decode (.hostTx tx)) (s.setPort rest)
      else .refused .secondHost := by
  simp only [step, takeEvent, h]
  rfl

theorem step_accessInReset {s : State} {agent : Nat} {tx : HostTx} {rest : List PortEvent}
    (h : s.port = .accessInReset agent tx :: rest) :
    step s = if agent = s.host then .next (accessUnderReset tx (s.setPort rest))
      else .refused .secondHost := by
  simp only [step, takeEvent, h]
  rfl

/-- Everything a completed step can have been. -/
theorem step_cases {s t : State} (h : step s = .next t) :
    (s.port = [] ∧ t = s) ∨
    (∃ rest, s.port = .reset :: rest ∧ t = applyReset (s.setPort rest)) ∨
    (∃ tx rest, s.port = .access s.host tx :: rest ∧
      exec (decode (.hostTx tx)) (s.setPort rest) = .next t) ∨
    (∃ tx rest, s.port = .accessInReset s.host tx :: rest ∧
      t = accessUnderReset tx (s.setPort rest)) := by
  cases hp : s.port with
  | nil =>
    rw [step_idle hp] at h
    cases h
    exact .inl ⟨rfl, rfl⟩
  | cons ev rest =>
    cases ev with
    | reset =>
      rw [step_reset hp] at h
      cases h
      exact .inr (.inl ⟨rest, rfl, rfl⟩)
    | access agent tx =>
      rw [step_access hp] at h
      split at h
      · rename_i ha
        exact .inr (.inr (.inl ⟨tx, rest, by rw [ha], h⟩))
      · cases h
    | accessInReset agent tx =>
      rw [step_accessInReset hp] at h
      split at h
      · rename_i ha
        cases h
        exact .inr (.inr (.inr ⟨tx, rest, by rw [ha], rfl⟩))
      · cases h

/-- A host read, by what stands at its address. -/
theorem execRd_cases (a : HostAddr) (d : Word) (s : State) :
    (∃ r, regAt a = some r ∧ execRd a d s = .next (s.respond (readReg s r))) ∨
    (regAt a = none ∧ execRd a d s = .next ((raise .badacc s).respond 0)) := by
  unfold execRd
  cases regAt a with
  | none => exact .inr ⟨rfl, rfl⟩
  | some r => exact .inl ⟨r, rfl, rfl⟩

/-- A host write, by what stands at its address. -/
theorem execWr_cases (a : HostAddr) (d : Word) (s : State) :
    (∃ r, regAt a = some (.operand r) ∧ execWr a d s = .next (storeOperand r d s)) ∨
    (regAt a = some .cmd ∧ execWr a d s = runCode (d.setWidth 8) s) ∨
    (regAt a = some .status ∧ execWr a d s = .next (acknowledge d s)) ∨
    ((regAt a = none ∨ regAt a = some .outlen ∨ ∃ i, regAt a = some (.out i)) ∧
      execWr a d s = .next (raise .badacc s)) := by
  unfold execWr
  cases regAt a with
  | none => exact .inr (.inr (.inr ⟨.inl rfl, rfl⟩))
  | some r =>
    cases r with
    | cmd => exact .inr (.inl ⟨rfl, rfl⟩)
    | status => exact .inr (.inr (.inl ⟨rfl, rfl⟩))
    | outlen => exact .inr (.inr (.inr ⟨.inr (.inl rfl), rfl⟩))
    | operand r => exact .inl ⟨r, rfl, rfl⟩
    | out i => exact .inr (.inr (.inr ⟨.inr (.inr ⟨i, rfl⟩), rfl⟩))

end Sys2Proof.Machine
end

