-- ==== Sys2Proof/Tests/Slice0.lean ====
section
/-! SUPPORT. The model's own tests. Expected values are those of spec/95_test_vectors.md (named in each comment) or read off the rules by hand; the second half names, for each statement with hypotheses, concrete values that meet them. -/

namespace Sys2Proof.Tests

set_option Elab.async false

open Sys2Proof.Machine

/-- The default parameters with three marker values for NONFINITE_I16, so that the tests can tell its three
kinds apart. -/
def params : Params where
  pktidSetBlock := 0x05#8
  pktidPosition := 0x08#8
  pktidMessage := 0x0D#8
  roundTies := .even
  nonasciiByte := 0x3F#8
  nonfiniteNaN := 0x1111#16
  nonfinitePosInf := 0xAAAA#16
  nonfiniteNegInf := 0xBBBB#16

/-- The same with ROUND_TIES = AWAY. -/
def paramsAway : Params := { params with roundTies := .away }

/-- The reset state with those parameters. -/
def base : State := { State.reset with params := params }

/-- `base` with some operands. -/
def withOps (o : Operands) : State := { base with operands := o }

/-- A string buffer that holds a text, zero beyond it. -/
def text (l : List CodeUnit) : Vector CodeUnit 64 := Vector.ofFn fun i => l.getD i.val 0

/-- CMD, STATUS, the packet a host can read and the values returned, after an outcome. -/
def seen : Host.Outcome State Fault Refusal → Option (Byte × Byte × List Byte × List Word)
  | .next s => some (s.cmd, s.status, visibleOut s, s.responses)
  | .fault _ => none
  | .refused _ => none

/-! ### WellFormed and Decode -/

/-- The one check of WellFormed refuses an ILLEGAL that carries a command's code, and nothing else. -/
theorem test_wellFormed_refuses_command_codes :
    (Instr.illegal 0x01#8).wellFormed = false ∧ (Instr.illegal 0x02#8).wellFormed = false ∧
    (Instr.illegal 0x03#8).wellFormed = false ∧ (Instr.illegal 0x04#8).wellFormed = false ∧
    (Instr.illegal 0x00#8).wellFormed = true ∧ (Instr.illegal 0x05#8).wellFormed = true ∧
    Instr.login.wellFormed = true ∧ (Instr.rd 0xFFF#12 0#64).wellFormed = true := by decide

/-- CODE bytes of R57, and three of R58's illegal codes. -/
theorem test_decode_commands :
    decodeTableWord 8 0b00000001 = some .login ∧
    decodeTableWord 8 0b00000010 = some .setBlock ∧
    decodeTableWord 8 0b00000011 = some .position ∧
    decodeTableWord 8 0b00000100 = some .message ∧
    decodeTableWord 8 0b00000000 = some (.illegal 0x00#8) ∧
    decodeTableWord 8 0b00000101 = some (.illegal 0x05#8) ∧
    decodeTableWord 8 0b11111111 = some (.illegal 0xFF#8) := by decide

/-- `1:018:…3` and `0:282:0` of P1, `1:00A:…FB` of P2, and a read whose data bits are not zero (R61). -/
theorem test_decode_transactions :
    decodeTableWord 80 0x10180000000000000003 = some (.wr 0x018#12 3#64) ∧
    decodeTableWord 80 0x02820000000000000000 = some (.rd 0x282#12 0#64) ∧
    decodeTableWord 80 0x100AFFFFFFFFFFFFFFFB = some (.wr 0x00A#12 0xFFFFFFFFFFFFFFFB#64) ∧
    decodeTableWord 77 0x0FFF8000000000000001 = some (.rd 0xFFF#12 0x8000000000000001#64) := by decide

/-- Words of no format are rejected by name. -/
theorem test_decode_rejects_by_name :
    (match readWord 0 0 with | .error .noBits => true | _ => false) = true ∧
    (match readWord 8 0x100 with | .error .aboveCmd8 => true | _ => false) = true ∧
    (match readWord 80 (2 ^ 77) with | .error .aboveHostTx => true | _ => false) = true := by decide

/-- `WR SBX, 0xA` is `1:008:000000000000000A` (P2), and MESSAGE is 0x04. -/
theorem test_encode_words :
    encode (.wr 0x008#12 0xA#64) = .hostTx 0x1008000000000000000A#77 ∧
    encode .message = .cmd8 0x04#8 := by decide

/-! ### Datapath -/

/-- A1 to A8. -/
theorem test_asc :
    asc 0x3F 0x0041 = 0x41 ∧ asc 0x3F 0x0000 = 0x00 ∧ asc 0x3F 0x007F = 0x7F ∧ asc 0x3F 0x0080 = 0x3F ∧
    asc 0x3F 0xD83D = 0x3F ∧ asc 0x3F 0x0141 = 0x3F ∧ asc 0x2A 0x00E9 = 0x2A := by decide

/-- T2, T6, T8 and T9. -/
theorem test_slot :
    slot 0x3F (text [0x61, 0x62]) 2 = [0x61, 0x62] ++ List.replicate 62 0x20 ∧
    slot 0x3F (text [0x63, 0x61, 0x66, 0xE9, 0, 0x21]) 6
      = [0x63, 0x61, 0x66, 0x3F, 0x00, 0x21] ++ List.replicate 58 0x20 ∧
    slot 0x3F (text [0x61, 0x62, 0x20, 0x20]) 4 = slot 0x3F (text [0x61, 0x62]) 2 ∧
    slot 0x3F (text [0x61, 0x62, 0x63, 0x64]) 3 = [0x61, 0x62, 0x63] ++ List.replicate 61 0x20 := by
  decide +kernel

/-- T5: LEN = 65535 is as LEN = 64. -/
theorem test_slot_long :
    slot 0x3F (Vector.replicate 64 0x41) 65535 = List.replicate 64 0x41 := by decide +kernel

/-- B1 and B2. -/
theorem test_be16 : be16 0x0027 = [0x00, 0x27] ∧ be16 0x1234 = [0x12, 0x34] := by decide

/-- X1 to X14: exact values, ties and the wrap, under both tie rules. -/
theorem test_fixq_even :
    ([0x0000000000000000, 0x8000000000000000, 0x3FF0000000000000, 0xBFF8000000000000,
      0x3F90000000000000, 0x3FA8000000000000, 0xBF90000000000000, 0x3F9EB851EB851EB8,
      0x408FFFC000000000, 0x408FFFE000000000, 0xC090000000000000, 0xC090001000000000].map
        fun b => fixq params (f64 (BitVec.ofNat 64 b)))
    = [0x0000, 0x0000, 0x0020, 0xFFD0, 0x0000, 0x0002, 0x0000, 0x0001, 0x7FFF, 0x8000, 0x8000,
        0x8000] := by decide +kernel

theorem test_fixq_away :
    ([0x3F90000000000000, 0x3FA8000000000000, 0xBF90000000000000, 0x408FFFE000000000,
      0xC090001000000000].map fun b => fixq paramsAway (f64 (BitVec.ofNat 64 b)))
    = [0x0001, 0x0002, 0xFFFF, 0x8000, 0x7FFF] := by decide +kernel

/-- X15 to X22 but X17; X17's value 2^35 + 3 at its own pattern 0x4220000000060000 (log entry 17). -/
theorem test_fixq_wrap_and_nonfinite :
    ([0x40A0000000000000, 0x40A1170000000000, 0x4220000000060000, 0x7E37E43C8800759C,
      0x0000000000000001, 0x7FA0000000000000, 0x7FF0000000000000, 0x7FF8000000000000].map
        fun b => fixq params (f64 (BitVec.ofNat 64 b)))
    = [0x0000, 0x1170, 0x0060, 0x0000, 0x0000, 0xAAAA, 0xAAAA, 0x1111] := by decide +kernel

/-- Z1 to Z12, under EVEN; Z4 and Z5 under AWAY. -/
theorem test_fixq_z :
    ([0x0000000000000000, 0x3FF0000000000000, 0xBFF35C28F5C28F5C, 0xBF7C28F5C28F5C00,
      0x42D0000000000000, 0xC000000000000000, 0xBFF8000000000000, 0x4059200000000000,
      0x408FF00000000000, 0x408FF66666666666, 0x7FF0000000000000, 0xFFA0000000000000].map
        fun b => fixq params (scaleZ (f64 (BitVec.ofNat 64 b))))
    = [0x0027, 0x0047, 0x0000, 0x0026, 0x0026, 0xFFE7, 0xFFF7, 0x0CB7, 0x7FE7, 0x8000, 0xAAAA,
        0xBBBB] ∧
    ([0xBF7C28F5C28F5C00, 0x42D0000000000000].map
        fun b => fixq paramsAway (scaleZ (f64 (BitVec.ofNat 64 b)))) = [0x0027, 0x0027] := by
  decide +kernel

/-- P2's listing: LDF 10.5 and 64.0; `LDF PZ, -1.21` of Z3; 0.03 of X9. -/
theorem test_ldf_patterns :
    packF64 (f64OfDecimal false 105 1) = 0x4025000000000000#64 ∧
    packF64 (f64OfDecimal false 640 1) = 0x4050000000000000#64 ∧
    packF64 (f64OfDecimal true 121 2) = 0xBFF35C28F5C28F5C#64 ∧
    packF64 (f64OfDecimal false 3 2) = 0x3F9EB851EB851EB8#64 := by decide +kernel

/-! ### Commands -/

/-- L2: A = "bot", B = "key". -/
theorem test_login :
    seen (exec .login (withOps { Operands.reset with
      lena := 3, stra := text [0x62, 0x6F, 0x74], lenb := 3, strb := text [0x6B, 0x65, 0x79] }))
    = some (0x01, 0x01, [0x00, 0x07, 0x62, 0x6F, 0x74] ++ List.replicate 61 0x20 ++
        [0x6B, 0x65, 0x79] ++ List.replicate 61 0x20 ++ [0x00], []) := by decide +kernel

/-- L4: A = 64 × "U", B = 65 × "K". -/
theorem test_login_full :
    seen (exec .login (withOps { Operands.reset with
      lena := 64, stra := Vector.replicate 64 0x55, lenb := 65, strb := Vector.replicate 64 0x4B }))
    = some (0x01, 0x01, [0x00, 0x07] ++ List.replicate 64 0x55 ++ List.replicate 64 0x4B ++ [0x00],
        []) := by decide +kernel

/-- S2 and S3. -/
theorem test_setBlock :
    seen (exec .setBlock (withOps { Operands.reset with
      sbx := 0xFFFF, sby := 0x7FFF, sbz := 0x8000, mode := 0, btype := 0xFF }))
    = some (0x02, 0x01, [0x05, 0xFF, 0xFF, 0x80, 0x00, 0x7F, 0xFF, 0x00, 0xFF], []) ∧
    seen (exec .setBlock (withOps { Operands.reset with
      sbx := 0x1234, sby := 0xABCD, sbz := 0x00FF, mode := 7, btype := 0x31 }))
    = some (0x02, 0x01, [0x05, 0x12, 0x34, 0x00, 0xFF, 0xAB, 0xCD, 0x07, 0x31], []) := by
  decide +kernel

/-- S5, the parameter variant; E3: ILLCMD stays set beside DONE. -/
theorem test_setBlock_parameter_and_sticky :
    seen (exec .setBlock { withOps { Operands.reset with
        sbx := 1, sby := 2, sbz := 3, mode := 1, btype := 5 } with
      params := { params with pktidSetBlock := 0x42 }, status := 0x02 })
    = some (0x02, 0x03, [0x42, 0x00, 0x01, 0x00, 0x03, 0x00, 0x02, 0x01, 0x05], []) := by
  decide +kernel

/-- Q2. -/
theorem test_position :
    seen (exec .position (withOps { Operands.reset with
      px := 0x4025000000000000, py := 0x4050000000000000, pz := 0x3FF0000000000000,
      yaw := 0x40, pitch := 0x80 }))
    = some (0x03, 0x01, [0x08, 0xFF, 0x01, 0x50, 0x00, 0x47, 0x08, 0x00, 0x40, 0x80], []) := by
  decide +kernel

/-- Q8, with the marker value for NONFINITE_I16(NaN); Q5, ROUND_TIES = AWAY. -/
theorem test_position_nan_and_away :
    seen (exec .position (withOps { Operands.reset with px := 0x7FF8000000000000 }))
    = some (0x03, 0x01, [0x08, 0xFF, 0x11, 0x11, 0x00, 0x27, 0x00, 0x00, 0x00, 0x00], []) ∧
    seen (exec .position { withOps { Operands.reset with px := 0x3F90000000000000 } with
      params := paramsAway })
    = some (0x03, 0x01, [0x08, 0xFF, 0x00, 0x01, 0x00, 0x27, 0x00, 0x00, 0x00, 0x00], []) := by
  decide +kernel

/-- M6: A = "hi", B = "zzz"; and M5's two surrogates. -/
theorem test_message :
    seen (exec .message (withOps { Operands.reset with
      lena := 2, stra := text [0x68, 0x69], lenb := 3, strb := text [0x7A, 0x7A, 0x7A] }))
    = some (0x04, 0x01, [0x0D, 0xFF, 0x68, 0x69] ++ List.replicate 62 0x20, []) ∧
    seen (exec .message (withOps { Operands.reset with lena := 2, stra := text [0xD83D, 0xDE00] }))
    = some (0x04, 0x01, [0x0D, 0xFF, 0x3F, 0x3F] ++ List.replicate 62 0x20, []) := by decide +kernel

/-- M3: LENA = 70, the first 64 letters. -/
theorem test_message_long :
    seen (exec .message (withOps { Operands.reset with
      lena := 70, stra := Vector.ofFn fun i => BitVec.ofNat 16 (0x41 + i.val % 26) }))
    = some (0x04, 0x01, [0x0D, 0xFF] ++ ((List.range 26).map fun i => BitVec.ofNat 8 (0x41 + i)) ++
        ((List.range 26).map fun i => BitVec.ofNat 8 (0x41 + i)) ++
        [0x41, 0x42, 0x43, 0x44, 0x45, 0x46, 0x47, 0x48, 0x49, 0x4A, 0x4B, 0x4C], []) := by
  decide +kernel

/-- E1, and E2 from a state with DONE set and a packet. -/
theorem test_illegal :
    seen (exec (.illegal 0x00) base) = some (0x00, 0x02, [], []) ∧
    seen (exec (.illegal 0xFF) { base with cmd := 0x02, status := 0x01, outlen := 9 })
      = some (0xFF, 0x02, [], []) := by decide +kernel

/-! ### Host access -/

/-- H1, H2, H13, H7 and H8: reads of STATUS, of unmapped addresses and of OUT beyond OUTLEN. -/
theorem test_rd :
    [seen (exec (.rd 0x001 0) base), seen (exec (.rd 0x003 0) base), seen (exec (.rd 0xFFF 0) base),
      seen (exec (.rd 0x282 0) { base with outlen := 1, outbuf := Vector.replicate 131 0x99 })]
    = [some (0x00, 0x00, [], [0]), some (0x00, 0x04, [], [0]), some (0x00, 0x04, [], [0]),
        some (0x00, 0x00, [0x99], [0])] := by decide +kernel

/-- H10 to H12: what reads back after a write of more bits than the register has. -/
theorem test_rd_widths :
    seen (exec (.rd 0x008 0) (withOps { Operands.reset with sbx := 0x8000 }))
      = some (0x00, 0x00, [], [0x8000]) ∧
    seen (exec (.rd 0x010 0) (withOps { Operands.reset with px := 0x7FF8000000000001 }))
      = some (0x00, 0x00, [], [0x7FF8000000000001]) := by decide +kernel

/-- H3, H4, H5, H6 and H14: writes of read-only, STATUS and unmapped addresses. -/
theorem test_wr_status_and_bad :
    [seen (exec (.wr 0x002 5) base), seen (exec (.wr 0x200 0x55) { base with status := 0x01 }),
      seen (exec (.wr 0x001 0x02) { base with status := 0x07 }),
      seen (exec (.wr 0x001 0xF8) { base with status := 0x07 }), seen (exec (.wr 0x180 1) base)]
    = [some (0x00, 0x04, [], []), some (0x00, 0x05, [], []), some (0x00, 0x05, [], []),
        some (0x00, 0x07, [], []), some (0x00, 0x04, [], [])] := by decide +kernel

/-- S4 and H12: `WR SBX, 0x0001000000000005` keeps 0x0005, `WR LENA, 0x12345` keeps 0x2345; the last string
elements are written at 0x13F and 0x17F. -/
theorem test_wr_operands :
    (match exec (.wr 0x008 0x0001000000000005) base with
      | .next t => t.operands.sbx == 0x0005 && t.operands.sby == 0 | _ => false) = true ∧
    (match exec (.wr 0x018 0x12345) base with
      | .next t => t.operands.lena == 0x2345 | _ => false) = true ∧
    (match exec (.wr 0x13F 0x4C) base with
      | .next t => t.operands.stra.toList == List.replicate 63 0 ++ [0x4C] | _ => false) = true ∧
    (match exec (.wr 0x17F 0x4C) base with
      | .next t => t.operands.strb.toList == List.replicate 63 0 ++ [0x4C] | _ => false) = true := by
  decide +kernel

/-- H9: `WR CMD, 0x09`, one step of a placed transaction, and the same code placed as a command code. -/
theorem test_step_placed_words :
    [seen (step (base.withFetchWord 80 0x10000000000000000009)),
      seen (step (base.withFetchWord 8 0x09)), seen (step (base.withFetchWord 8 0x02))]
    = [some (0x09, 0x02, [], []), some (0x09, 0x02, [], []),
        some (0x02, 0x01, [0x05, 0, 0, 0, 0, 0, 0, 0, 0], [])] := by decide +kernel

/-- R121: a reset at the port of a used machine. -/
theorem test_step_reset :
    seen (step { base with cmd := 2, status := 7, outlen := 9, port := [.reset] })
      = some (0x00, 0x00, [], []) := by decide +kernel

/-! ### Concrete values that meet each statement's hypotheses -/

/-- A used machine: a SetBlock packet stands, string A is full, stale bytes lie beyond the packet. -/
def used : State where
  params := params
  host := 3
  cmd := 0x02
  status := 0x05
  outlen := 9
  operands := { Operands.reset with sbx := 0xFFFF, lena := 70, stra := Vector.replicate 64 0x41 }
  outbuf := (Vector.replicate 131 0x20).set 0 0x05
  port := []
  responses := [0x7]

/-- `WR CMD, 0x03`. -/
def positionTx : HostTx := 0x10000000000000000003#77

/-- `RD CMD`. -/
def readTx : HostTx := 0x00000000000000000000#77

theorem used_meets_the_invariant : StateInv used := by
  unfold StateInv headerOk slotsOk
  decide +kernel

theorem witness_EveryStepKeepsTheInvariant :
    StateInv { used with port := [.access 3 positionTx, .reset] } ∧
    ∃ t, step { used with port := [.access 3 positionTx, .reset] } = .next t := by
  refine ⟨?_, ?_⟩
  · unfold StateInv headerOk slotsOk
    decide +kernel
  · exact ⟨_, rfl⟩

theorem witness_ResetEventZeroesEveryRegister :
    ({ used with port := [.reset, .access 3 readTx] } : State).port = .reset :: [.access 3 readTx] := rfl

theorem witness_AccessUnderResetHasNoEffect :
    ({ used with port := [.accessInReset 3 readTx] } : State).port
      = .accessInReset used.host readTx :: [] ∧ readTx.getLsbD 76 = false ∧
    ({ used with port := [.accessInReset 3 positionTx] } : State).port
      = .accessInReset used.host positionTx :: [] ∧ positionTx.getLsbD 76 = true :=
  ⟨rfl, by decide, rfl, by decide⟩

theorem witness_StepRunsTheOldestAccess :
    ({ used with port := [.access 3 positionTx, .reset] } : State).port
      = .access used.host positionTx :: [.reset] ∧
    positionTx.getLsbD 76 = true ∧ positionTx.extractLsb' 64 12 = 0x000#12 :=
  ⟨rfl, by decide, by decide⟩

theorem witness_IdlePortHoldsEverything : used.port = [] := rfl

theorem witness_SecondHostAccessIsRefused :
    (4 ≠ used.host) ∧
    ({ used with port := [.access 4 readTx] } : State).port = .access 4 readTx :: [] ∧
    ({ used with port := [.accessInReset 4 readTx] } : State).port = .accessInReset 4 readTx :: [] :=
  ⟨by decide, rfl, rfl⟩

theorem witness_OneHostStepsAlwaysComplete :
    oneHost { used with port := [.access 3 positionTx, .reset, .accessInReset 3 readTx] } = true := by
  decide

theorem witness_PlacedWordRunsItsInstruction :
    decodeTableWord 8 0xFF = some (.illegal 0xFF#8) ∧
    decodeTableWord 80 0x1FFFFFFFFFFFFFFFFFFF = some (.wr 0xFFF#12 0xFFFFFFFFFFFFFFFF#64) := by decide

/-- The first hidden byte, at offset OUTLEN, and the last one differ. -/
theorem witness_StaleOutputBytesAreNeverObservable :
    SameVisible used { used with outbuf := (used.outbuf.set 9 0xAA).set 130 0xBB } ∧
    used ≠ { used with outbuf := (used.outbuf.set 9 0xAA).set 130 0xBB } := by
  refine ⟨⟨rfl, ?_⟩, ?_⟩ <;> decide +kernel

/-- Also of CommandsAreIdempotent and BytesBeyondThePacketAreKept: each kind of issuing instruction. -/
theorem witness_EncodeThenDecodeIsIdentity_and_issuing_instructions :
    ∀ i ∈ [Instr.login, .setBlock, .position, .message, .illegal 0x00#8, .illegal 0x05#8, .illegal 0xFF#8,
        .wr 0x000#12 0xFF04#64],
      i.wellFormed = true ∧ issuedCode i ≠ none := by decide +kernel

/-- Also of IllegalCodeRaisesIllcmd: the ends of the illegal ranges. -/
theorem witness_CommandCodesDecodeAsTheMapSays :
    ∀ c ∈ [0x00#8, 0x05#8, 0xFF#8], c.toNat = 0 ∨ 0x05 ≤ c.toNat := by simp

/-- Each range's first and last address, and its mapped neighbours. -/
theorem witness_UnmappedAccessRaisesBadacc :
    ([0x003#12, 0x007#12, 0x00D#12, 0x00F#12, 0x015#12, 0x017#12, 0x01A#12, 0x0FF#12, 0x180#12, 0x1FF#12,
        0x283#12, 0xFFF#12].all unmappedAddr) = true ∧
    ([0x002#12, 0x008#12, 0x00C#12, 0x010#12, 0x014#12, 0x018#12, 0x019#12, 0x100#12, 0x17F#12, 0x200#12,
        0x282#12].all fun a => !unmappedAddr a) = true := by decide +kernel

theorem witness_ReadOnlyWriteRaisesBadacc :
    ∀ a ∈ [0x002#12, 0x200#12, 0x282#12],
      a = 0x002#12 ∨ (0x200 ≤ a.toNat ∧ a.toNat ≤ 0x282) := by simp

/-- One address of each width, and others to read beside it. -/
theorem witness_ReadAfterWriteReturnsTheWrite :
    ([0x008#12, 0x00C#12, 0x010#12, 0x014#12, 0x018#12, 0x019#12, 0x100#12, 0x17F#12].all operandAddr) = true ∧
    (0x001#12 : HostAddr) ≠ 0x008#12 ∧ unmappedAddr 0x001#12 = false ∧
    (0x101#12 : HostAddr) ≠ 0x100#12 ∧ unmappedAddr 0x101#12 = false := by decide +kernel

theorem witness_ReadsAreIdempotent :
    ([0x000#12, 0x001#12, 0x002#12, 0x010#12, 0x17F#12, 0x282#12].all fun a => !unmappedAddr a) = true := by
  decide +kernel

/-- An element at the declared length itself, and the last one. -/
theorem witness_OperandWriteStoresLowBits :
    Instr.login ∈ [Instr.login, .setBlock, .position, .message] ∧
    used.operands.lenb.toNat ≤ (0 : Fin 64).val ∧ base.operands.lena.toNat ≤ (63 : Fin 64).val := by
  decide

/-- Also of PacketOutlivesEveryOtherAccess and of StatusBitsChangeOnlyAsListed's second clause. -/
theorem witness_CmdReadsBackTheLastCode :
    ∀ i ∈ [Instr.rd 0x000#12 0#64, .wr 0x001#12 7#64, .wr 0x010#12 1#64, .wr 0xFFF#12 0#64],
      i.wellFormed = true ∧ issuedCode i = none := by decide

theorem witness_StatusBitsChangeOnlyAsListed :
    Instr.login.wellFormed = true ∧ issuedCode .login = some 0x01#8 ∧
    issuedCode (.wr 0x000#12 0x105#64) = some 0x05#8 ∧
    (isBadAccess (.wr 0x282#12 0#64) && !isBadAccess (.rd 0x282#12 0#64)) = true ∧
    clearsStatusBit (.wr 0x001#12 0xC#64) 2 = true ∧ clearsStatusBit (.wr 0x001#12 0xC#64) 3 = false := by
  decide +kernel

theorem witness_OnlyOperandWritesChangeOperands :
    (∀ (a : HostAddr) (d : Word), Instr.wr 0x001#12 7#64 = .wr a d → operandAddr a = false) ∧
    operandAddr 0x17F#12 = true ∧ issuedCode (.wr 0x000#12 4#64) = some 0x04#8 ∧
    isCommandCode 0x04#8 = true ∧ issuedCode (.illegal 5#8) = some 0x05#8 ∧
    isCommandCode 0x05#8 = false :=
  ⟨fun _ _ h => by cases h; decide, by decide, by decide, by decide, by decide, by decide⟩

theorem witness_AsciiMapperMapsAsListed :
    (0x007F#16).toNat < 0x80 ∧ 0x80 ≤ (0x0080#16).toNat := by decide

/-- Clause (b) at LEN = 64, clause (c) at 65, clause (d) for "ab" and "ab" with two spaces. -/
theorem witness_PadderLaws :
    (64 ≤ 64 ∧ ∀ k : Fin 64, k.val < 64 → (Vector.replicate 64 0x7F#16)[k].toNat < 0x80) ∧ 64 < 65 ∧
    (2 ≤ 4 ∧ 4 ≤ 64 ∧
      (∀ k : Fin 64, k.val < 2 →
        (text [0x61, 0x62, 0x20, 0x20])[k] = (text [0x61, 0x62])[k]) ∧
      (∀ k : Fin 64, 2 ≤ k.val → k.val < 4 → (text [0x61, 0x62, 0x20, 0x20])[k] = 0x20#16)) := by
  decide +kernel

/-- The ends of both ranges. -/
theorem witness_Binary64PatternValues :
    (0 < 2048 ∧ 0 < 2 ^ 52) ∧ (2047 < 2048 ∧ 2 ^ 52 - 1 < 2 ^ 52) := by decide

theorem witness_EyeHeightOffsetIsNearest121 :
    (f64 0x3FF35C28F5C28F5D#64).isFinite = true := by decide +kernel

/-- A finite sum, a tie (2^53 + 1, between 2^53 and 2^53 + 2), an overflow, and an exact zero sum. -/
theorem witness_AdditionRoundsToNearestEven :
    (f64 0x4340000000000000#64).isFinite = true ∧ (f64 0x3FF0000000000000#64).isFinite = true ∧
    addRNE64 (f64 0x4340000000000000#64) (f64 0x3FF0000000000000#64) = f64 0x4340000000000000#64 ∧
    (f64 0x4340000000000001#64).isFinite = true ∧
    ((f64 0x4340000000000000#64).units
        - ((f64 0x4340000000000000#64).units + (f64 0x3FF0000000000000#64).units)).natAbs
      = ((f64 0x4340000000000001#64).units
        - ((f64 0x4340000000000000#64).units + (f64 0x3FF0000000000000#64).units)).natAbs ∧
    (f64 0x7FEFFFFFFFFFFFFF#64).isFinite = true ∧
    (addRNE64 (f64 0x7FEFFFFFFFFFFFFF#64) (f64 0x7FEFFFFFFFFFFFFF#64)).isFinite = false ∧
    (f64 0xBFF0000000000000#64).units + (f64 0x3FF0000000000000#64).units = 0 := by decide +kernel

/-- 2^54, and -2^54. -/
theorem witness_ZScalerCornerCases :
    (f64 0x4350000000000000#64).isFinite = true ∧
    2 ^ 54 * 2 ^ 1074 ≤ (f64 0x4350000000000000#64).units.natAbs ∧
    (f64 0x4350000000000000#64).units ≠ -(2 ^ 54 * 2 ^ 1074) ∧
    scaleZ (f64 0x4350000000000000#64) = f64 0x4350000000000000#64 ∧
    (f64 0xC350000000000000#64).units = -(2 ^ 54 * 2 ^ 1074) ∧
    scaleZ (f64 0xC350000000000000#64) = .fin true ((2 ^ 54 - 2) * 2 ^ 1074) := by decide +kernel

/-- Each case of TimesThirtyTwoIsExact: NaN, an infinity, 2^1019 and the pattern just below it. -/
theorem witness_TimesThirtyTwoIsExact :
    f64 0x7FF8000000000000#64 = .nan ∧ scaleZ (f64 0xFFF0000000000000#64) = .inf true ∧
    f64 0x7FA0000000000000#64 = .fin false (2 ^ 1019 * 2 ^ 1074) ∧
    f64 0x7F9FFFFFFFFFFFFF#64 = .fin false ((2 ^ 53 - 1) * 2 ^ 2040) ∧
    (2 ^ 53 - 1) * 2 ^ 2040 < 2 ^ 1019 * 2 ^ 1074 := by decide +kernel

/-- X6 and X8: halves on both sides of zero. -/
theorem witness_RoundIntIsNearestWithTieRule :
    ∀ s ∈ [(2 ^ 1073 : Int), -2 ^ 1073, 3 * 2 ^ 1073], ∀ ties ∈ [RoundTies.even, RoundTies.away],
      2 * (roundInt ties s * 2 ^ 1074 - s).natAbs = 2 ^ 1074 := by decide +kernel

theorem witness_FixedPointFieldOfOneAxis :
    scaleZ (f64 0#64) = f64 0#64 ∨ scaleZ (f64 0#64) = scaleZ (f64 0#64) := .inr rfl

theorem witness_PackerPlacesFieldsInOrder :
    (List.replicate 131 0xFF#8).length ≤ 131 ∧
    (⟨130, by decide⟩ : Fin 131).val < (List.replicate 131 0xFF#8).length := by simp

/-- Two states that agree on what MESSAGE reads, and differ elsewhere. -/
theorem witness_PacketDependsOnlyOnListedOperands_message :
    Instr.message.wellFormed = true ∧ issuedCode .message = some 0x04#8 ∧
    sameParamsFor 0x04#8 used.params { params with pktidSetBlock := 0, roundTies := .away } ∧
    (∀ r : OperandReg, codeReads 0x04#8 r = true →
      readOperand used.operands r
        = readOperand { used.operands with sbx := 1, pz := 1, lenb := 9, strb := text [1] } r) := by
  refine ⟨by decide, by decide, ?_, ?_⟩
  · unfold sameParamsFor
    decide
  · intro r h
    cases r <;> first | rfl | simp [codeReads] at h

/-- The same for LOGIN, which reads both strings. -/
theorem witness_PacketDependsOnlyOnListedOperands_login :
    Instr.login.wellFormed = true ∧ issuedCode .login = some 0x01#8 ∧
    sameParamsFor 0x01#8 used.params { params with pktidMessage := 0, roundTies := .away } ∧
    (∀ r : OperandReg, codeReads 0x01#8 r = true →
      readOperand used.operands r = readOperand { used.operands with sbx := 1, pz := 1, yaw := 9 } r) := by
  refine ⟨by decide, by decide, ?_, ?_⟩
  · unfold sameParamsFor
    decide
  · intro r h
    cases r <;> first | rfl | simp [codeReads] at h

/-- The same for SETBLOCK. -/
theorem witness_PacketDependsOnlyOnListedOperands_setBlock :
    Instr.setBlock.wellFormed = true ∧ issuedCode .setBlock = some 0x02#8 ∧
    sameParamsFor 0x02#8 used.params { params with pktidMessage := 0, nonasciiByte := 0 } ∧
    (∀ r : OperandReg, codeReads 0x02#8 r = true →
      readOperand used.operands r = readOperand { used.operands with lena := 1, pz := 1, yaw := 9 } r) := by
  refine ⟨by decide, by decide, ?_, ?_⟩
  · unfold sameParamsFor
    decide
  · intro r h
    cases r <;> first | rfl | simp [codeReads] at h

/-- The same for POSITION. -/
theorem witness_PacketDependsOnlyOnListedOperands_position :
    Instr.position.wellFormed = true ∧ issuedCode .position = some 0x03#8 ∧
    sameParamsFor 0x03#8 used.params { params with pktidMessage := 0, nonasciiByte := 0 } ∧
    (∀ r : OperandReg, codeReads 0x03#8 r = true →
      readOperand used.operands r = readOperand { used.operands with lena := 1, sbx := 1, mode := 9 } r) := by
  refine ⟨by decide, by decide, ?_, ?_⟩
  · unfold sameParamsFor
    decide
  · intro r h
    cases r <;> first | rfl | simp [codeReads] at h

/-- The same for an illegal code, which reads nothing. -/
theorem witness_PacketDependsOnlyOnListedOperands_illegal :
    (Instr.illegal 0x05#8).wellFormed = true ∧ issuedCode (.illegal 0x05#8) = some 0x05#8 ∧
    sameParamsFor 0x05#8 used.params paramsAway ∧ (∀ r : OperandReg, codeReads 0x05#8 r = false) := by
  refine ⟨by decide, by decide, ?_, ?_⟩
  · unfold sameParamsFor
    decide
  · intro r
    cases r <;> rfl

theorem witness_ReadoutReturnsThePacket :
    used.outlen.toNat ≤ 131 ∧ ({ used with outlen := 131 } : State).outlen.toNat ≤ 131 := by decide

/-- `LDF PZ, -1.21` (Z3) is finite, and its pattern is C121's with the sign set. -/
theorem witness_LdfWritesTheNearestPattern :
    (f64OfDecimal true 121 2).isFinite = true ∧ (f64 0xBFF35C28F5C28F5C#64).isFinite = true ∧
    f64OfDecimal true 121 2 = f64 0xBFF35C28F5C28F5C#64 := by decide +kernel

/-- The tie of 9007199254740993 = 2^53 + 1, as near to 2^53 as to 2^53 + 2. -/
theorem witness_LdfWritesTheNearestPattern_tie :
    (f64OfDecimal false 9007199254740993 0).isFinite = true ∧
    (f64 0x4340000000000001#64).isFinite = true ∧
    ((f64OfDecimal false 9007199254740993 0).units - 9007199254740993 * 2 ^ 1074).natAbs
      = ((f64 0x4340000000000001#64).units - 9007199254740993 * 2 ^ 1074).natAbs ∧
    (f64 0x4340000000000001#64).units ≠ (f64OfDecimal false 9007199254740993 0).units := by
  decide +kernel

theorem witness_LdcAndClrstDoAsListed :
    ∀ v ∈ [(-32768 : Int), 32767], -32768 ≤ v ∧ v ≤ 32767 := by decide

end Sys2Proof.Tests
end

/-! PROOF. What one access does to the operands (10_state.md R31): every instruction completes, a host write to an
operand address stores one operand, and a command code replaces the command's own outputs. -/

namespace Sys2Proof.Machine

/-- The four codes of R57, one by one. -/
theorem isCommandCode_iff (c : Byte) :
    isCommandCode c = true ↔ c = 0x01#8 ∨ c = 0x02#8 ∨ c = 0x03#8 ∨ c = 0x04#8 := by
  simp [isCommandCode, or_assoc]

theorem runCode_of_legal {c : Byte} (h : isCommandCode c = true) (s : State) :
    ∃ p, runCode c s = .next (completeCommand c p s) := by
  obtain rfl | rfl | rfl | rfl := (isCommandCode_iff c).mp h
  · exact ⟨loginPacket s.params s.operands, rfl⟩
  · exact ⟨setBlockPacket s.params s.operands, rfl⟩
  · exact ⟨positionPacket s.params s.operands, rfl⟩
  · exact ⟨messagePacket s.params s.operands, rfl⟩

theorem runCode_of_illegal {c : Byte} (h : isCommandCode c = false) (s : State) :
    runCode c s = .next (illegalCommand c s) := by
  have hc : ¬(c = 0x01#8 ∨ c = 0x02#8 ∨ c = 0x03#8 ∨ c = 0x04#8) := by
    simp [← isCommandCode_iff, h]
  simp only [not_or] at hc
  simp [runCode, execIllegal, hc]

/-- No code, legal or not, writes an operand (R31). -/
theorem runCode_keeps_operands (c : Byte) (s : State) :
    ∃ t, runCode c s = .next t ∧ t.operands = s.operands := by
  cases h : isCommandCode c with
  | true =>
    obtain ⟨p, hp⟩ := runCode_of_legal h s
    exact ⟨_, hp, rfl⟩
  | false => exact ⟨_, runCode_of_illegal h s, rfl⟩

/-- The operand addresses of R19's ranges are the addresses the register map gives an operand. -/
theorem regAt_operand_iff (a : HostAddr) :
    (∃ r, regAt a = some (.operand r)) ↔ operandAddr a = true := by
  -- Each branch of the map becomes a condition on the address, and the two conditions are the same ranges.
  simp [regAt, operandAddr, ite_eq_iff, dite_eq_iff, exists_or]
  omega

/-- A well-formed instruction that issues a code runs that code, whether it is the command, an ILLEGAL or the
host write to CMD (R56, R64, R71). -/
theorem exec_eq_runCode {i : Instr} {c : Byte} (hwf : i.wellFormed = true) (hc : issuedCode i = some c)
    (s : State) : exec i s = runCode c s := by
  cases i with
  | login => cases hc; rfl
  | setBlock => cases hc; rfl
  | position => cases hc; rfl
  | message => cases hc; rfl
  | rd a d => cases hc
  | wr a d =>
    obtain ⟨rfl, rfl⟩ : a = 0x000#12 ∧ d.setWidth 8 = c := by simpa [issuedCode] using hc
    rfl
  | illegal code =>
    have hcode : isCommandCode code = false := by simpa [Instr.wellFormed] using hwf
    cases hc
    exact (runCode_of_illegal hcode s).symm

/-- A host write to an operand's address is the store to that operand (R70). -/
theorem exec_wr_operand {a : HostAddr} {r : OperandReg} (h : regAt a = some (.operand r)) (d : Word)
    (s : State) : exec (.wr a d) s = .next (storeOperand r d s) := by
  simp [exec, execWr, h]

/-- Every instruction completes, and all but the host writes to an operand's address keep the operands. -/
theorem exec_keeps_operands_or_stores (i : Instr) (s : State) :
    ∃ t, exec i s = .next t ∧ (t.operands = s.operands ∨
      ∃ a d r, i = .wr a d ∧ regAt a = some (.operand r)) := by
  cases i with
  | login => exact ⟨_, rfl, .inl rfl⟩
  | setBlock => exact ⟨_, rfl, .inl rfl⟩
  | position => exact ⟨_, rfl, .inl rfl⟩
  | message => exact ⟨_, rfl, .inl rfl⟩
  | illegal c => exact ⟨_, rfl, .inl rfl⟩
  | rd a d =>
    obtain ⟨r, -, h⟩ | ⟨-, h⟩ := execRd_cases a d s
    · exact ⟨_, h, .inl rfl⟩
    · exact ⟨_, h, .inl rfl⟩
  | wr a d =>
    obtain ⟨r, hr, h⟩ | ⟨-, h⟩ | ⟨-, h⟩ | ⟨-, h⟩ := execWr_cases a d s
    · exact ⟨_, h, .inr ⟨a, d, r, rfl, hr⟩⟩
    · obtain ⟨t, ht, hop⟩ := runCode_keeps_operands (d.setWidth 8) s
      exact ⟨t, h.trans ht, .inl hop⟩
    · exact ⟨_, h, .inl rfl⟩
    · exact ⟨_, h, .inl rfl⟩

/-- Settles O30. The operands' clause is the case split over the instructions; the other three name the instruction
or its code, and the operation it then runs gives the whole next state. -/
theorem onlyOperandWritesChangeOperands : Obligations.OnlyOperandWritesChangeOperands := by
  intro s i hwf
  obtain ⟨t, ht, hop⟩ := exec_keeps_operands_or_stores i s
  refine ⟨t, ht, fun hno => ?_, fun a d hi ha => ?_, fun c hc hlegal => ?_, fun c hc hillegal => ?_⟩
  · refine hop.resolve_right ?_
    rintro ⟨a, d, r, hi, hr⟩
    have ha : operandAddr a = true := (regAt_operand_iff a).mp ⟨r, hr⟩
    simp [hno a d hi] at ha
  · subst hi
    obtain ⟨r, hr⟩ := (regAt_operand_iff a).mpr ha
    cases (exec_wr_operand hr d s).symm.trans ht
    rfl
  · obtain ⟨p, hp⟩ := runCode_of_legal hlegal s
    cases hp.symm.trans ((exec_eq_runCode hwf hc s).symm.trans ht)
    exact completeCommand_eq c p s
  · cases (runCode_of_illegal hillegal s).symm.trans ((exec_eq_runCode hwf hc s).symm.trans ht)
    exact illegalCommand_eq c s

end Sys2Proof.Machine

/-! PROOF. What a transaction word is and does (30_encoding.md R61): its three fields come back from their bit
positions, a read gives one response whatever its DATA bits, and a write gives none. -/

namespace Sys2Proof

/-- The word of a read has no bit set for WE. -/
theorem hostTxWord_false (a : HostAddr) (d : Word) :
    hostTxWord false a d = BitVec.ofNat 77 (a.toNat * 2 ^ 64 + d.toNat) := by
  rw [hostTxWord, if_neg Bool.false_ne_true, Nat.zero_add]

/-- The word of a write has bit 76 set. -/
theorem hostTxWord_true (a : HostAddr) (d : Word) :
    hostTxWord true a d = BitVec.ofNat 77 (2 ^ 76 + a.toNat * 2 ^ 64 + d.toNat) := by
  rw [hostTxWord, if_pos rfl]

theorem decode_hostTxWord (we : Bool) (a : HostAddr) (d : Word) :
    decode (.hostTx (hostTxWord we a d)) = if we then .wr a d else .rd a d := by
  rw [decode, decodeHostTx, txWE_hostTxWord, txAddr_hostTxWord, txData_hostTxWord]

theorem decode_hostTx_of_write {tx : HostTx} (h : tx.getLsbD 76 = true) :
    decode (.hostTx tx) = .wr (txAddr tx) (txData tx) := if_pos h

theorem decode_hostTx_of_read {tx : HostTx} (h : tx.getLsbD 76 = false) :
    decode (.hostTx tx) = .rd (txAddr tx) (txData tx) := if_neg (ne_true_of_eq_false h)

end Sys2Proof

namespace Sys2Proof.Machine

/-- A host read completes with one more response, at a mapped address and at an unmapped one (R74 to R76). -/
theorem exec_rd_responds_once (a : HostAddr) (d : Word) (s : State) :
    ∃ t v, exec (.rd a d) s = .next t ∧ t.responses = s.responses ++ [v] := by
  obtain ⟨r, -, h⟩ | ⟨-, h⟩ := execRd_cases a d s
  · exact ⟨_, readReg s r, h, rfl⟩
  · exact ⟨_, 0, h, rfl⟩

/-- No code, legal or not, gives a response. -/
theorem runCode_keeps_responses (c : Byte) (s : State) :
    ∃ t, runCode c s = .next t ∧ t.responses = s.responses := by
  cases h : isCommandCode c with
  | true =>
    obtain ⟨p, hp⟩ := runCode_of_legal h s
    exact ⟨_, hp, rfl⟩
  | false => exact ⟨_, runCode_of_illegal h s, rfl⟩

/-- A host write completes without a response, whatever stands at its address (R70 to R73, R76). -/
theorem exec_wr_keeps_responses (a : HostAddr) (d : Word) (s : State) :
    ∃ t, exec (.wr a d) s = .next t ∧ t.responses = s.responses := by
  obtain ⟨r, -, h⟩ | ⟨-, h⟩ | ⟨-, h⟩ | ⟨-, h⟩ := execWr_cases a d s
  · exact ⟨_, h, rfl⟩
  · obtain ⟨t, ht, hresp⟩ := runCode_keeps_responses (d.setWidth 8) s
    exact ⟨t, h.trans ht, hresp⟩
  · exact ⟨_, h, rfl⟩
  · exact ⟨_, h, rfl⟩

/-- The effect of a host read does not depend on its word's DATA bits (R61). -/
theorem exec_rd_ignores_data (a : HostAddr) (d e : Word) (s : State) :
    exec (.rd a d) s = exec (.rd a e) s := rfl

/-- Settles O15. The first clause is the encoder's word taken apart again; the second is the case split on bit 76
into a write and a read, each of which completes at every address; the third holds as a read's meaning has no use
of DATA. -/
theorem transactionFieldsDecode : Obligations.TransactionFieldsDecode := by
  refine ⟨fun a d => ⟨?_, ?_⟩, fun tx s => ?_, exec_rd_ignores_data⟩
  · rw [← hostTxWord_false, decode_hostTxWord, if_neg Bool.false_ne_true]
  · rw [← hostTxWord_true, decode_hostTxWord, if_pos rfl]
  · cases h : tx.getLsbD 76 with
    | true =>
      obtain ⟨t, ht, hresp⟩ := exec_wr_keeps_responses (txAddr tx) (txData tx) s
      exact ⟨t, [], by rw [decode_hostTx_of_write h, ht], by rw [hresp, List.append_nil], rfl⟩
    | false =>
      obtain ⟨t, v, ht, hresp⟩ := exec_rd_responds_once (txAddr tx) (txData tx) s
      exact ⟨t, [v], by rw [decode_hostTx_of_read h, ht], hresp, rfl⟩

end Sys2Proof.Machine

/-! PROOF. What a host access does, register class by register class (40_host_access.md R70, R72 to R76): the access
at a register's address is the register's own operation, and a bad access raises BADACC. -/

namespace Sys2Proof.Machine

/-- Every register stands at its address (R19). -/
theorem regAt_addrOf (r : HostReg) : regAt (addrOf r) = some r := by
  cases r with
  | cmd => exact regAt_scalar _ (by simp)
  | status => exact regAt_scalar _ (by simp)
  | outlen => exact regAt_scalar _ (by simp)
  | out i => exact regAt_out i
  | operand r =>
    cases r with
    | strA i => exact regAt_strA i
    | strB i => exact regAt_strB i
    | _ => exact regAt_scalar _ (by simp)

/-- A host read at a register's address returns the register and changes nothing else (R74, R75). -/
theorem exec_rd_addrOf (r : HostReg) (d : Word) (s : State) :
    exec (.rd (addrOf r) d) s = .next (s.respond (readReg s r)) := by
  simp [exec, execRd, regAt_addrOf]

/-- A host write at an operand's address is the store to that operand (R70). -/
theorem exec_wr_addrOf_operand (r : OperandReg) (d : Word) (s : State) :
    exec (.wr (addrOf (.operand r)) d) s = .next (storeOperand r d s) :=
  exec_wr_operand (regAt_addrOf _) d s

/-- A host write at STATUS's address acknowledges events (R72). -/
theorem exec_wr_addrOf_status (d : Word) (s : State) :
    exec (.wr (addrOf .status) d) s = .next (acknowledge d s) := by
  simp [exec, execWr, regAt_addrOf]

/-- A host read where no register stands (R76). -/
theorem exec_rd_unmapped {a : HostAddr} (h : regAt a = none) (d : Word) (s : State) :
    exec (.rd a d) s = .next ((raise .badacc s).respond 0) := by
  simp [exec, execRd, h]

/-- A host write where nothing writable stands: no register (R76), OUTLEN or a byte of OUT (R73). -/
theorem exec_wr_bad {a : HostAddr}
    (h : regAt a = none ∨ regAt a = some .outlen ∨ ∃ i, regAt a = some (.out i)) (d : Word) (s : State) :
    exec (.wr a d) s = .next (raise .badacc s) := by
  obtain h | h | ⟨i, h⟩ := h <;> simp [exec, execWr, h]

/-- The unmapped ranges of R19 are the addresses at which the register map has no register. -/
theorem regAt_eq_none_iff (a : HostAddr) : regAt a = none ↔ unmappedAddr a = true := by
  -- Each branch of the map becomes a condition on the address, and the two conditions are the same ranges.
  simp [regAt, unmappedAddr, ite_eq_iff, dite_eq_iff]
  omega

/-- At the addresses of R73 stand OUTLEN and the bytes of OUT. -/
theorem regAt_readOnly {a : HostAddr} (h : a = 0x002#12 ∨ (0x200 ≤ a.toNat ∧ a.toNat ≤ 0x282)) :
    regAt a = some .outlen ∨ ∃ i, regAt a = some (.out i) := by
  obtain rfl | ⟨hlo, hhi⟩ := h
  · exact .inl (regAt_addrOf .outlen)
  · have hout := regAt_out ⟨a.toNat - 0x200, by omega⟩
    rw [Nat.add_sub_cancel' hlo, BitVec.ofNat_toNat, BitVec.setWidth_eq] at hout
    exact .inr ⟨_, hout⟩

/-- The mask of the clearable bits is the low three bits. -/
theorem getLsbD_clearable (j : Nat) : (0x07#8).getLsbD j = decide (j < 3) :=
  Nat.testBit_two_pow_sub_one 3 j

/-- Write-1-to-clear, bit by bit (R72). -/
theorem getLsbD_statusW1C (st : Byte) (d : Word) (j : Nat) :
    (statusW1C st d).getLsbD j = (st.getLsbD j && !(decide (j < 3) && d.getLsbD j)) := by
  by_cases hj : j < 8
  · simp only [statusW1C, statusClear, BitVec.getLsbD_and, BitVec.getLsbD_not, BitVec.getLsbD_setWidth,
      getLsbD_clearable, hj, decide_true, Bool.true_and, Bool.and_comm]
  · simp [BitVec.getLsbD_of_ge _ j (Nat.le_of_not_lt hj)]

/-- Settles O19. Each address is a register's own, and the access there is the register's read. -/
theorem readReturnsTheRegister : Obligations.ReadReturnsTheRegister := fun s d =>
  ⟨exec_rd_addrOf .cmd d s, exec_rd_addrOf .status d s, exec_rd_addrOf .outlen d s,
    exec_rd_addrOf (.operand .sbx) d s, exec_rd_addrOf (.operand .sby) d s,
    exec_rd_addrOf (.operand .sbz) d s, exec_rd_addrOf (.operand .mode) d s,
    exec_rd_addrOf (.operand .btype) d s, exec_rd_addrOf (.operand .px) d s,
    exec_rd_addrOf (.operand .py) d s, exec_rd_addrOf (.operand .pz) d s,
    exec_rd_addrOf (.operand .yaw) d s, exec_rd_addrOf (.operand .pitch) d s,
    exec_rd_addrOf (.operand .lena) d s, exec_rd_addrOf (.operand .lenb) d s,
    fun i => exec_rd_addrOf (.operand (.strA i)) d s,
    fun i => exec_rd_addrOf (.operand (.strB i)) d s⟩

/-- Settles O20. `readOut` is the rule of R74, and the access at `0x200 + i` returns it. -/
theorem readOfOutIsHiddenBeyondOutlen : Obligations.ReadOfOutIsHiddenBeyondOutlen :=
  fun s d i => exec_rd_addrOf (.out i) d s

/-- Settles O21. R19's unmapped ranges are where the register map has no register. -/
theorem unmappedAccessRaisesBadacc : Obligations.UnmappedAccessRaisesBadacc := by
  intro s a d ha
  have hnone : regAt a = none := (regAt_eq_none_iff a).mpr ha
  exact ⟨exec_rd_unmapped hnone d s, exec_wr_bad (.inl hnone) d s⟩

/-- Settles O22. The address is that of OUTLEN or of one byte of OUT, and a write to either raises BADACC. -/
theorem readOnlyWriteRaisesBadacc : Obligations.ReadOnlyWriteRaisesBadacc :=
  fun s _ d ha => exec_wr_bad (.inr (regAt_readOnly ha)) d s

/-- Settles O23. The new value is the write-1-to-clear of the old one. -/
theorem statusWriteClearsSelectedBits : Obligations.StatusWriteClearsSelectedBits := fun s d =>
  ⟨statusW1C s.status d, exec_wr_addrOf_status d s, getLsbD_statusW1C s.status d⟩

end Sys2Proof.Machine

/-! PROOF. Which operand a packet does not depend on (40_host_access.md R70; 41_datapath_primitives.md R80): a string
element at or beyond the declared length is in no command's packet. -/

namespace Sys2Proof.Machine

/-- A text slot has no use of the elements from its length on (R79, R80). -/
theorem slot_set_of_le (n : Byte) (buf : Vector CodeUnit 64) {len : Nat} {i : Fin 64} (h : len ≤ i.val)
    (v : CodeUnit) : slot n (buf.set i v) len = slot n buf len := by
  apply List.ext_getElem?
  intro k
  by_cases hk : k < 64
  · rw [slot_getElem? _ _ _ _ hk, slot_getElem? _ _ _ _ hk]
    by_cases hlen : k < neff len
    · have hik : i.val ≠ k := by
        have : neff len ≤ len := Nat.min_le_left _ _
        omega
      rw [Vector.getElem_set_ne _ _ hik]
    · rw [if_neg hlen, if_neg hlen]
  · rw [List.getElem?_eq_none (by rw [slot_length]; omega),
      List.getElem?_eq_none (by rw [slot_length]; omega)]

/-- Two values of the operands of which every command builds the same packet. -/
structure SamePackets (p : Params) (o q : Operands) : Prop where
  login : loginPacket p q = loginPacket p o
  setBlock : setBlockPacket p q = setBlockPacket p o
  position : positionPacket p q = positionPacket p o
  message : messagePacket p q = messagePacket p o

theorem samePackets_write_strA (p : Params) {o : Operands} {i : Fin 64} (h : o.lena.toNat ≤ i.val)
    (d : Word) : SamePackets p o (writeOperand o (.strA i) d) where
  login := by simp only [loginPacket, writeOperand, slot_set_of_le _ _ h]
  setBlock := rfl
  position := rfl
  message := by
    have hmin : min o.lena.toNat 64 ≤ i.val := (Nat.min_le_left _ _).trans h
    simp only [messagePacket, writeOperand, slot_set_of_le _ _ hmin]

theorem samePackets_write_strB (p : Params) {o : Operands} {i : Fin 64} (h : o.lenb.toNat ≤ i.val)
    (d : Word) : SamePackets p o (writeOperand o (.strB i) d) where
  login := by simp only [loginPacket, writeOperand, slot_set_of_le _ _ h]
  setBlock := rfl
  position := rfl
  message := rfl

/-- A command's completion writes no operand and, given its packet, reads none (R31, R96). -/
theorem completeCommand_setOperands (c : Byte) {p p' : List Byte} {q : Operands} (h : p' = p) (s : State) :
    completeCommand c p' (s.setOperands q) = (completeCommand c p s).setOperands q := by
  rw [h]
  rfl

/-- Every command commutes with a change of the operands that keeps the packets. -/
theorem exec_command_setOperands {s : State} {q : Operands} (h : SamePackets s.params s.operands q)
    {j : Instr} (hj : j ∈ [Instr.login, .setBlock, .position, .message]) :
    ∃ u, exec j s = .next u ∧ exec j (s.setOperands q) = .next (u.setOperands q) := by
  simp only [List.mem_cons, List.not_mem_nil, or_false] at hj
  obtain rfl | rfl | rfl | rfl := hj
  · exact ⟨_, rfl, congrArg Host.Outcome.next (completeCommand_setOperands _ h.login s)⟩
  · exact ⟨_, rfl, congrArg Host.Outcome.next (completeCommand_setOperands _ h.setBlock s)⟩
  · exact ⟨_, rfl, congrArg Host.Outcome.next (completeCommand_setOperands _ h.position s)⟩
  · exact ⟨_, rfl, congrArg Host.Outcome.next (completeCommand_setOperands _ h.message s)⟩

/-- A stored operand on which no packet depends is ignored: a command then leaves the visible bytes that it
would have left before the store (R70). -/
theorem stored_operand_ignored {s : State} {r : OperandReg} {d : Word}
    (h : SamePackets s.params s.operands (writeOperand s.operands r d))
    {j : Instr} (hj : j ∈ [Instr.login, .setBlock, .position, .message]) :
    ∃ t u v, exec (.wr (addrOf (.operand r)) d) s = .next t ∧ exec j s = .next u ∧ exec j t = .next v ∧
      visibleOut v = visibleOut u := by
  obtain ⟨u, hu, hv⟩ := exec_command_setOperands h hj
  exact ⟨_, u, _, exec_wr_addrOf_operand r d s, hu, hv, rfl⟩

/-- Settles O24. Each address is an operand's own, and the access there is the store; an element at or beyond its
string's length is in no packet, so the store commutes with every command. -/
theorem operandWriteStoresLowBits : Obligations.OperandWriteStoresLowBits := fun s d =>
  ⟨exec_wr_addrOf_operand .sbx d s, exec_wr_addrOf_operand .sby d s, exec_wr_addrOf_operand .sbz d s,
    exec_wr_addrOf_operand .mode d s, exec_wr_addrOf_operand .btype d s, exec_wr_addrOf_operand .px d s,
    exec_wr_addrOf_operand .py d s, exec_wr_addrOf_operand .pz d s, exec_wr_addrOf_operand .yaw d s,
    exec_wr_addrOf_operand .pitch d s, exec_wr_addrOf_operand .lena d s, exec_wr_addrOf_operand .lenb d s,
    fun i => exec_wr_addrOf_operand (.strA i) d s, fun i => exec_wr_addrOf_operand (.strB i) d s,
    fun _ _ hj => ⟨fun hlen => stored_operand_ignored (samePackets_write_strA s.params hlen d) hj,
      fun hlen => stored_operand_ignored (samePackets_write_strB s.params hlen d) hj⟩⟩

end Sys2Proof.Machine

/-! PROOF. The text primitives, the byte order and the packer (41_datapath_primitives.md R78 to R80, R91, R92). -/

namespace Sys2Proof.Machine

theorem asc_of_ascii (n : Byte) {c : CodeUnit} (h : c.toNat < 0x80) : asc n c = c.extractLsb' 0 8 := by
  rw [asc, if_pos h, BitVec.setWidth_eq_extractLsb' (by decide)]

theorem asc_of_not_ascii (n : Byte) {c : CodeUnit} (h : 0x80 ≤ c.toNat) : asc n c = n :=
  if_neg (Nat.not_lt.mpr h)

theorem asc_eq (n : Byte) (c : CodeUnit) :
    asc n c = if c.toNat < 0x80 then c.extractLsb' 0 8 else n := by
  split
  case isTrue h => exact asc_of_ascii n h
  case isFalse h => exact asc_of_not_ascii n (Nat.not_lt.mp h)

/-- Settles O32. The low byte of a code unit below 0x80 is the code unit itself. -/
theorem asciiMapperMapsAsListed : Obligations.AsciiMapperMapsAsListed := by
  refine fun n c => ⟨fun h => ?_, asc_of_not_ascii n⟩
  rw [asc_of_ascii n h, BitVec.extractLsb'_toNat, Nat.shiftRight_zero]
  omega

/-- Settles O33. The slot's length and its bytes, with each byte below the effective length the ASCII mapper's. -/
theorem slotIsMappedTextThenSpaces : Obligations.SlotIsMappedTextThenSpaces := by
  refine fun n buf len => ⟨slot_length n buf len, fun k => ?_⟩
  rw [slot_getElem? n buf len k k.isLt, asc_eq]
  rfl

/-- Settles O44. The two bytes of a 16-bit value are its quotient and its remainder by 256. -/
theorem byteOrderIsBigEndian : Obligations.ByteOrderIsBigEndian := by
  intro v
  have hhigh : v.extractLsb' 8 8 = BitVec.ofNat 8 (v.toNat / 256) := by
    apply BitVec.eq_of_toNat_eq
    rw [BitVec.extractLsb'_toNat, BitVec.toNat_ofNat, Nat.shiftRight_eq_div_pow]
  have hlow : v.extractLsb' 0 8 = BitVec.ofNat 8 (v.toNat % 256) := by
    apply BitVec.eq_of_toNat_eq
    rw [BitVec.extractLsb'_toNat, BitVec.toNat_ofNat, Nat.shiftRight_zero, Nat.mod_mod]
  rw [be16, hhigh, hlow]

/-- Settles O45. The packer's whole effect, with OUTBUF below the packet's length the packet's bytes. -/
theorem packerPlacesFieldsInOrder : Obligations.PackerPlacesFieldsInOrder := by
  intro s p hp
  rw [pack_eq]
  refine ⟨rfl, ?_, fun k hk => ?_⟩
  · rw [BitVec.toNat_ofNat]
    omega
  · rw [List.getElem?_eq_getElem hk]
    exact congrArg some (overlay_get_lt p s.outbuf k k.isLt hk).symm

end Sys2Proof.Machine

/-! PROOF. Rounding to an integer and the reduction modulo 2^16 (41_datapath_primitives.md R87, R88). -/

namespace Sys2Proof.Machine

/-- Settles O42. A residue modulo 2^16 is not negative, so it is its own natural number. -/
theorem wrap16IsModulo : Obligations.Wrap16IsModulo := by
  intro r
  rw [wrap16, BitVec.toNat_ofInt, Int.toNat_of_nonneg (Int.emod_nonneg r (by decide))]
  rfl

theorem unitsPerOne_pos : 0 < unitsPerOne := by decide +kernel

theorem unitsPerOne_cast : (unitsPerOne : Int) = 2 ^ 1074 := by decide +kernel

/-- The tie rule: whether a value exactly halfway above `f` goes down to `f` (R87). -/
def TieGoesDown (ties : RoundTies) (f s : Int) : Prop :=
  match ties with
  | .even => f % 2 = 0
  | .away => s ≤ 0

/-- `roundInt` takes the floor or its successor, whichever is nearer, and at one half as the tie rule says. -/
theorem roundInt_cases (ties : RoundTies) (s : Int) :
    ∃ f d : Int, s = f * unitsPerOne + d ∧ 0 ≤ d ∧ d < unitsPerOne ∧
      ((roundInt ties s = f ∧ 2 * d ≤ unitsPerOne ∧ (2 * d = unitsPerOne → TieGoesDown ties f s)) ∨
       (roundInt ties s = f + 1 ∧ unitsPerOne ≤ 2 * d ∧
         (2 * d = unitsPerOne → ¬ TieGoesDown ties f s))) := by
  have hone : (0 : Int) < unitsPerOne := Int.natCast_pos.mpr unitsPerOne_pos
  have hs := Int.mul_fdiv_add_fmod s unitsPerOne
  have hd0 := Int.fmod_nonneg_of_pos s hone
  have hd1 := Int.fmod_lt_of_pos s hone
  have hd : s - s.fdiv unitsPerOne * unitsPerOne = s.fmod unitsPerOne := by
    rw [Int.mul_comm]
    omega
  refine ⟨s.fdiv unitsPerOne, s.fmod unitsPerOne, by omega, hd0, hd1, ?_⟩
  simp only [roundInt, hd]
  generalize s.fdiv unitsPerOne = f, s.fmod unitsPerOne = d at *
  obtain hlt | heq | hgt := lt_trichotomy (2 * d) (unitsPerOne : Int)
  · rw [if_pos hlt]
    exact .inl ⟨rfl, hlt.le, fun h => absurd h hlt.ne⟩
  · rw [if_neg heq.not_lt, if_neg heq.not_gt]
    cases ties with
    | even =>
      by_cases hf : f % 2 = 0
      · exact .inl ⟨if_pos hf, heq.le, fun _ => hf⟩
      · exact .inr ⟨if_neg hf, heq.ge, fun _ => hf⟩
    | away =>
      by_cases hpos : 0 < s
      · exact .inr ⟨if_pos hpos, heq.ge, fun _ => not_le.mpr hpos⟩
      · exact .inl ⟨if_neg hpos, heq.le, fun _ => not_lt.mp hpos⟩
  · rw [if_neg hgt.not_gt, if_pos hgt]
    exact .inr ⟨rfl, hgt.le, fun h => absurd h hgt.ne'⟩

/-- Settles O41. The floor is `d` below the value and its successor `unitsPerOne - d` above it; `roundInt` takes the
nearer of the two, and at one half the one that the tie rule names. -/
theorem roundIntIsNearestWithTieRule : Obligations.RoundIntIsNearestWithTieRule := by
  intro ties s
  obtain ⟨f, d, hs, hd0, hd1, hround⟩ := roundInt_cases ties s
  have hone : 2 ^ 1074 = unitsPerOne := rfl
  rw [← unitsPerOne_cast, hone]
  generalize unitsPerOne = one at *
  obtain ⟨hr, hhalf, htie⟩ | ⟨hr, hhalf, htie⟩ := hround
  · rw [hr]
    refine ⟨by omega, fun heq => ?_⟩
    cases ties with
    | even => exact htie (by omega)
    | away =>
      have hs : s ≤ 0 := htie (by omega)
      show s.natAbs < (f * one).natAbs
      omega
  · rw [hr, add_mul, one_mul]
    refine ⟨by omega, fun heq => ?_⟩
    cases ties with
    | even =>
      have hf : ¬ f % 2 = 0 := htie (by omega)
      show (f + 1) % 2 = 0
      omega
    | away =>
      have hs : ¬ s ≤ 0 := htie (by omega)
      show s.natAbs < (f * one + one).natAbs
      omega

end Sys2Proof.Machine

/-! PROOF. Which magnitudes binary64 holds without rounding: those with a significand of at most 53 bits
(41_datapath_primitives.md R83 to R86). -/

namespace Sys2Proof.Machine

/-- A magnitude with a significand of at most 53 bits, at any exponent. -/
def FitsSignificand (m : Nat) : Prop := ∃ a k, a < 2 ^ 53 ∧ m = a * 2 ^ k

theorem fitsSignificand_of_le {a : Nat} (h : a ≤ 2 ^ 53) (k : Nat) : FitsSignificand (a * 2 ^ k) := by
  obtain hlt | rfl := h.lt_or_eq
  · exact ⟨a, k, hlt, rfl⟩
  · exact ⟨2 ^ 52, k + 1, by decide, by rw [pow_succ']; ring⟩

theorem FitsSignificand.mul_two_pow {m : Nat} (h : FitsSignificand m) (j : Nat) :
    FitsSignificand (2 ^ j * m) := by
  obtain ⟨a, k, ha, rfl⟩ := h
  exact ⟨a, k + j, ha, by rw [pow_add]; ring⟩

/-- The bits that `roundUnits` drops of such a magnitude are zeros. -/
theorem FitsSignificand.two_pow_dvd {m : Nat} (h : FitsSignificand m) : 2 ^ (m.log2 + 1 - 53) ∣ m := by
  by_cases hm : m = 0
  · rw [hm]
    exact Nat.dvd_zero _
  obtain ⟨a, k, ha, rfl⟩ := h
  have hlog : (a * 2 ^ k).log2 < 53 + k := by
    rw [Nat.log2_lt hm, pow_add]
    exact Nat.mul_lt_mul_of_pos_right ha (Nat.two_pow_pos k)
  exact Dvd.dvd.mul_left (Nat.pow_dvd_pow 2 (by omega)) a

/-- No rounding occurs where the exact value has a significand of at most 53 bits. -/
theorem roundUnits_exact {m den : Nat} (h : FitsSignificand m) (hden : 0 < den) :
    roundUnits (m * den) den = m := by
  rw [roundUnits, Nat.mul_div_cancel _ hden]
  obtain ⟨q, hq⟩ := h.two_pow_dvd
  generalize m.log2 + 1 - 53 = drop at *
  have hnum : m * den = q * (den * 2 ^ drop) := by
    rw [hq]
    ring
  rw [hnum, rneQuot_mul _ _ (Nat.mul_pos hden (Nat.two_pow_pos drop)), hq, Nat.mul_comm]

theorem rneQuot_le (num den : Nat) : rneQuot num den ≤ num / den + 1 := by
  simp only [rneQuot]
  split_ifs <;> omega

/-- What is rounded has a significand of at most 53 bits. -/
theorem roundUnits_fits (num den : Nat) : FitsSignificand (roundUnits num den) := by
  refine fitsSignificand_of_le ((rneQuot_le _ _).trans ?_) _
  rw [← Nat.div_div_eq_div_mul, Nat.succ_le_iff, Nat.div_lt_iff_lt_mul (Nat.two_pow_pos _), ← pow_add]
  exact Nat.lt_log2_self.trans_le (Nat.pow_le_pow_right (by decide) (by omega))

/-- The value of a pattern has a significand of at most 53 bits (R83). -/
theorem f64_fits {b : Word} {n : Bool} {m : Nat} (h : f64 b = .fin n m) : FitsSignificand m := by
  have hfrac : (b.extractLsb' 0 52).toNat < 2 ^ 52 := BitVec.isLt _
  simp only [f64] at h
  generalize (b.extractLsb' 52 11).toNat = expo, (b.extractLsb' 0 52).toNat = frac at *
  split_ifs at h <;> cases h
  · exact ⟨m, 0, by omega, by rw [pow_zero, mul_one]⟩
  · exact ⟨2 ^ 52 + frac, expo - 1, by omega, rfl⟩

/-- A finite sum has a significand of at most 53 bits (R85). -/
theorem addRNE64_fits {x y : F64} {n : Bool} {m : Nat} (h : addRNE64 x y = .fin n m) :
    FitsSignificand m := by
  cases x with
  | nan => cases h
  | inf =>
    cases y with
    | nan => cases h
    | inf => simp only [addRNE64] at h; split_ifs at h
    | fin => cases h
  | fin =>
    cases y with
    | nan => cases h
    | inf => cases h
    | fin =>
      simp only [addRNE64, ofRounded] at h
      split_ifs at h <;> cases h
      · exact ⟨0, 0, by decide, by decide⟩
      · exact roundUnits_fits _ _

/-- Each finite datum that POSITION converts, with the offset or without, has a significand of at most 53 bits. -/
theorem positionDatum_fits {b : Word} {t : F64} (ht : t = f64 b ∨ t = scaleZ (f64 b)) {n : Bool} {m : Nat}
    (h : t = .fin n m) : FitsSignificand m := by
  obtain rfl | rfl := ht
  · exact f64_fits h
  · exact addRNE64_fits h

end Sys2Proof.Machine

/-! PROOF. The product by 32 and the field of one axis (41_datapath_primitives.md R86, R89, R90). -/

namespace Sys2Proof.Machine

theorem scale32_eq : scale32 = .fin false (32 * unitsPerOne) := by decide +kernel

theorem times32_nan : times32 .nan = .nan := rfl

theorem times32_inf (n : Bool) : times32 (.inf n) = .inf n := by
  rw [times32, scale32_eq, mul64, if_neg (by decide +kernel), Bool.bne_false]

/-- The product of a datum with a significand of at most 53 bits is not rounded; it overflows from 2^1024 on. -/
theorem times32_fin (n : Bool) {m : Nat} (h : FitsSignificand m) :
    times32 (.fin n m) = ofRounded n (32 * m) := by
  have hnum : m * (32 * unitsPerOne) = 32 * m * unitsPerOne := by ring
  have hfits : FitsSignificand (32 * m) := h.mul_two_pow 5
  rw [times32, scale32_eq, mul64, hnum, Bool.bne_false, roundUnits_exact hfits unitsPerOne_pos]

/-- 32 times a magnitude is below 2^1024 exactly where the magnitude is below 2^1019 (R86). -/
theorem overflowUnits_le_iff (m : Nat) : overflowUnits ≤ 32 * m ↔ 2 ^ 1019 * 2 ^ 1074 ≤ m := by
  have h : overflowUnits = 32 * (2 ^ 1019 * 2 ^ 1074) := by decide +kernel
  rw [h, Nat.mul_le_mul_left_iff (by decide)]

theorem times32_of_lt (n : Bool) {m : Nat} (h : FitsSignificand m) (hm : m < 2 ^ 1019 * 2 ^ 1074) :
    times32 (.fin n m) = .fin n (32 * m) := by
  rw [times32_fin n h, ofRounded, if_neg (mt (overflowUnits_le_iff m).mp (Nat.not_le.mpr hm))]

theorem times32_of_le (n : Bool) {m : Nat} (h : FitsSignificand m) (hm : 2 ^ 1019 * 2 ^ 1074 ≤ m) :
    times32 (.fin n m) = .inf n := by
  rw [times32_fin n h, ofRounded, if_pos ((overflowUnits_le_iff m).mpr hm)]

/-- Settles O40. Every datum POSITION scales has a significand of at most 53 bits, so its product is exact. -/
theorem timesThirtyTwoIsExact : Obligations.TimesThirtyTwoIsExact := by
  refine fun b t ht => ⟨?_, ?_, fun n m h => ?_⟩
  · rintro rfl
    exact times32_nan
  · rintro n rfl
    exact times32_inf n
  · have hfits := positionDatum_fits ht h
    rw [h]
    exact ⟨times32_of_lt n hfits, times32_of_le n hfits⟩

theorem units_mul (n : Bool) (c m : Nat) : (F64.fin n (c * m)).units = c * (F64.fin n m).units := by
  cases n <;> simp [units_fin]

theorem fieldOf_inf (p : Params) (n : Bool) :
    fieldOf p (.inf n) = if n then p.nonfiniteNegInf else p.nonfinitePosInf := by
  cases n <;> rfl

theorem fieldOf_fin (p : Params) (n : Bool) (m : Nat) :
    fieldOf p (.fin n m) = wrap16 (roundInt p.roundTies (F64.fin n m).units) := rfl

/-- Settles O43. The field is that of the product by 32, which is NaN, an infinity, exact or an overflow. -/
theorem fixedPointFieldOfOneAxis : Obligations.FixedPointFieldOfOneAxis := by
  intro p b t ht
  cases t with
  | nan => rfl
  | inf n => rw [fixq, times32_inf, fieldOf_inf]
  | fin n m =>
    have hfits := positionDatum_fits ht rfl
    rw [fixq]
    by_cases hm : m < 2 ^ 1019 * 2 ^ 1074
    · rw [times32_of_lt n hfits hm, fieldOf_fin, units_mul]
      exact (if_pos hm).symm
    · rw [times32_of_le n hfits (Nat.not_lt.mp hm), fieldOf_inf]
      exact (if_neg hm).symm

end Sys2Proof.Machine

/-! PROOF. The eye-height offset (41_datapath_primitives.md R84): no binary64 value is nearer 1.21. -/

namespace Sys2Proof.Machine

/-- The step of the binary64 values from 1 to 2, which is 2^-52, in units. -/
def stepAtOne : Nat := 2 ^ 1022

theorem one_eq_steps : (2 : Int) ^ 1074 = 2 ^ 52 * stepAtOne := by decide +kernel

theorem c121_units : c121.units = 5449355549118300 * stepAtOne := by decide +kernel

theorem stepAtOne_dvd {k : Nat} (h : 1022 ≤ k) : stepAtOne ∣ 2 ^ k := by
  obtain ⟨j, rfl⟩ := Nat.exists_eq_add_of_le h
  exact Dvd.intro (2 ^ j) (by rw [stepAtOne, Nat.pow_add])

/-- A finite binary64 value is below 1 in magnitude or a whole number of those steps. -/
theorem f64_below_one_or_steps {b : Word} (h : (f64 b).isFinite = true) :
    (f64 b).units.natAbs < 2 ^ 52 * stepAtOne ∨ ∃ k : Int, (f64 b).units = k * stepAtOne := by
  cases hb : f64 b with
  | nan => simp [hb, F64.isFinite] at h
  | inf n => simp [hb, F64.isFinite] at h
  | fin n m =>
    obtain ⟨a, k, ha, rfl⟩ := f64_fits hb
    by_cases hk : k < 1022
    · left
      rw [natAbs_units]
      calc a * 2 ^ k < 2 ^ 53 * 2 ^ k := Nat.mul_lt_mul_of_pos_right ha (Nat.two_pow_pos k)
        _ ≤ 2 ^ 53 * 2 ^ 1021 := Nat.mul_le_mul_left _ (Nat.pow_le_pow_right (by decide) (by omega))
        _ = 2 ^ 52 * stepAtOne := by decide +kernel
    · right
      have hdvd : stepAtOne ∣ a * 2 ^ k := (stepAtOne_dvd (Nat.not_lt.mp hk)).mul_left a
      obtain ⟨q, hq⟩ := hdvd
      rw [hq, units_mul]
      exact ⟨(F64.fin n q).units, Int.mul_comm _ _⟩

/-- C121 is nearest to 1.21 both of the values below 1, which are too small, and of the whole numbers of steps:
in hundredths of a step C121 is 16 below 1.21, and every other whole number of steps is at least 84 away. -/
theorem c121_nearest {x : Int} (h : x.natAbs < 2 ^ 52 * stepAtOne ∨ ∃ k : Int, x = k * stepAtOne) :
    (100 * c121.units - 121 * 2 ^ 1074).natAbs ≤ (100 * x - 121 * 2 ^ 1074).natAbs := by
  rw [c121_units, one_eq_steps]
  obtain hsmall | ⟨k, rfl⟩ := h
  · omega
  · have hdist (j : Int) : 100 * (j * (stepAtOne : Int)) - 121 * (2 ^ 52 * stepAtOne)
        = (100 * j - 121 * 2 ^ 52) * stepAtOne := by ring
    rw [hdist, hdist, Int.natAbs_mul, Int.natAbs_mul]
    exact Nat.mul_le_mul_right _ (by omega)

/-- Settles O37. The clauses on C121 alone are evaluated; no finite value is nearer 1.21, as each is below 1 or
a whole number of steps. -/
theorem eyeHeightOffsetIsNearest121 : Obligations.EyeHeightOffsetIsNearest121 :=
  ⟨rfl, by decide +kernel, by decide +kernel, fun _ hb => c121_nearest (f64_below_one_or_steps hb),
    by decide +kernel, by decide +kernel, by decide +kernel⟩

end Sys2Proof.Machine

/-! PROOF. What a command code does (42_packet_commands.md R96 to R101): a legal code packs its packet and sets DONE,
every other code raises ILLCMD, clears DONE and leaves no packet. -/

namespace Sys2Proof.Machine

/-- Everything but OUTBUF after a legal command, given its packet's length (R96). -/
theorem completeCommand_frame (c : Byte) {p : List Byte} {n : Nat} (hlen : p.length = n) (s : State) :
    completeCommand c p s = { s with
      cmd := c
      status := s.status ||| 0x01#8
      outlen := BitVec.ofNat 8 n
      outbuf := (completeCommand c p s).outbuf } := by
  rw [completeCommand_eq, hlen]

/-- A byte of the packet stands in OUTBUF at its own offset (R96). -/
theorem completeCommand_outbuf (c : Byte) {p : List Byte} (s : State) {i : Nat} {v : Byte} (hi : i < 131)
    (hv : p[i]? = some v) : (completeCommand c p s).outbuf[i] = v := by
  obtain ⟨hlt, rfl⟩ := List.getElem?_eq_some_iff.mp hv
  exact overlay_get_lt p s.outbuf i hi hlt

/-- LOGIN's packet, with the two text slots standing whole between the fixed bytes (R97). -/
theorem loginPacket_eq (p : Params) (o : Operands) :
    loginPacket p o = 0x00#8 :: 0x07#8 :: (slot p.nonasciiByte o.stra o.lena.toNat
      ++ (slot p.nonasciiByte o.strb o.lenb.toNat ++ [0x00#8])) := by
  simp [loginPacket]

/-- String A's slot begins at offset 2 of LOGIN's packet. -/
theorem loginPacket_slotA (p : Params) (o : Operands) (k : Fin 64) :
    (loginPacket p o)[2 + k.val]? = (slot p.nonasciiByte o.stra o.lena.toNat)[k.val]? := by
  rw [loginPacket_eq, Nat.add_comm, List.getElem?_cons_succ, List.getElem?_cons_succ,
    List.getElem?_append_left (by rw [slot_length]; exact k.isLt)]

/-- String B's slot begins at offset 66, after the 64 bytes of string A's. -/
theorem loginPacket_slotB (p : Params) (o : Operands) (k : Fin 64) :
    (loginPacket p o)[66 + k.val]? = (slot p.nonasciiByte o.strb o.lenb.toNat)[k.val]? := by
  have hoff : 66 + k.val = 64 + k.val + 1 + 1 := by omega
  rw [loginPacket_eq, hoff, List.getElem?_cons_succ, List.getElem?_cons_succ,
    List.getElem?_append_right (by rw [slot_length]; omega), slot_length, Nat.add_sub_cancel_left,
    List.getElem?_append_left (by rw [slot_length]; exact k.isLt)]

/-- LOGIN's last byte stands after both slots. -/
theorem loginPacket_last (p : Params) (o : Operands) : (loginPacket p o)[130]? = some 0x00#8 := by
  simp [loginPacket_eq, slot_length]

/-- String A's slot begins at offset 2 of MESSAGE's packet, with the length cut at 64 (R100, R82). -/
theorem messagePacket_slot (p : Params) (o : Operands) (k : Fin 64) :
    (messagePacket p o)[2 + k.val]? = (slot p.nonasciiByte o.stra (min o.lena.toNat 64))[k.val]? := by
  rw [Nat.add_comm]
  rfl

/-- Cutting a length at 64 twice is cutting it once. -/
theorem slot_min (n : Byte) (buf : Vector CodeUnit 64) (len : Nat) :
    slot n buf (min len 64) = slot n buf len := by
  simp [slot, neff]

/-- Settles O46. The frame is that of every legal command, and each byte of the packet stands at its offset. -/
theorem loginBuildsTheIdentificationPacket : Obligations.LoginBuildsTheIdentificationPacket := by
  refine ⟨rfl, fun s => ⟨_, rfl, completeCommand_frame _ (loginPacket_length _ _) s,
    completeCommand_outbuf _ s _ rfl, completeCommand_outbuf _ s _ rfl, fun k => ?_, fun k => ?_,
    completeCommand_outbuf _ s _ (loginPacket_last _ _)⟩⟩
  · exact completeCommand_outbuf _ s _
      ((loginPacket_slotA _ _ k).trans ((slotIsMappedTextThenSpaces _ _ _).2 k))
  · exact completeCommand_outbuf _ s _
      ((loginPacket_slotB _ _ k).trans ((slotIsMappedTextThenSpaces _ _ _).2 k))

/-- Settles O47. The frame is that of every legal command, and each of the nine bytes stands at its offset. -/
theorem setBlockBuildsItsPacket : Obligations.SetBlockBuildsItsPacket := by
  refine ⟨rfl, fun s => ⟨_, rfl, completeCommand_frame _ (setBlockPacket_length _ _) s, ?_⟩⟩
  and_intros <;> exact completeCommand_outbuf _ s _ rfl

/-- Settles O48. The frame is that of every legal command, and each of the ten bytes stands at its offset; z's field
is that of the scaled z, which is by definition the sum with the eye-height offset. -/
theorem positionBuildsItsPacket : Obligations.PositionBuildsItsPacket := by
  refine ⟨rfl, fun s => ⟨_, rfl, completeCommand_frame _ (positionPacket_length _ _) s, ?_⟩⟩
  and_intros <;> exact completeCommand_outbuf _ s _ rfl

/-- Settles O49. The frame is that of every legal command; the slot of the length cut at 64 is the slot of the
length, as the slot cuts it too. -/
theorem messageBuildsItsPacket : Obligations.MessageBuildsItsPacket := by
  refine ⟨rfl, fun s => ⟨_, rfl, completeCommand_frame _ (messagePacket_length _ _) s,
    completeCommand_outbuf _ s _ rfl, completeCommand_outbuf _ s _ rfl, fun k => ?_⟩⟩
  refine completeCommand_outbuf _ s _ ((messagePacket_slot _ _ k).trans ?_)
  rw [slot_min]
  exact (slotIsMappedTextThenSpaces _ _ _).2 k

/-- The codes of R58 are no command's. -/
theorem isCommandCode_of_illegal {c : Byte} (h : c.toNat = 0 ∨ 0x05 ≤ c.toNat) : isCommandCode c = false := by
  rw [← Bool.not_eq_true, isCommandCode_iff]
  rintro (rfl | rfl | rfl | rfl) <;> exact absurd h (by decide)

theorem decode_cmd8_of_illegal {c : Byte} (h : isCommandCode c = false) : decode (.cmd8 c) = .illegal c := by
  have hc := mt (isCommandCode_iff c).mpr (ne_true_of_eq_false h)
  simp only [not_or] at hc
  simp [decode, decodeCmd8, hc]

/-- An illegal code clears DONE. -/
theorem getLsbD_statusAfterIllegal_done (st : Byte) : (statusAfterIllegal st).getLsbD 0 = false := by
  simp [statusAfterIllegal, statusClear, doneMask]

/-- An illegal code raises ILLCMD. -/
theorem getLsbD_statusAfterIllegal_illcmd (st : Byte) : (statusAfterIllegal st).getLsbD 1 = true := by
  simp [statusAfterIllegal, statusClear, statusSet, doneMask, eventMask]

/-- An illegal code keeps BADACC and the reserved bits (R101). -/
theorem getLsbD_statusAfterIllegal_other (st : Byte) {j : Nat} (hj : 2 ≤ j) :
    (statusAfterIllegal st).getLsbD j = st.getLsbD j := by
  by_cases hlt : j < 8
  · have hset : (eventMask .illcmd).getLsbD j = false := by
      rw [show eventMask .illcmd = BitVec.twoPow 8 1 from rfl, BitVec.getLsbD_twoPow,
        decide_eq_false (by omega : ¬1 = j), Bool.and_false]
    have hclear : doneMask.getLsbD j = false := by
      rw [show doneMask = BitVec.twoPow 8 0 from rfl, BitVec.getLsbD_twoPow,
        decide_eq_false (by omega : ¬0 = j), Bool.and_false]
    simp only [statusAfterIllegal, statusClear, statusSet, BitVec.getLsbD_and, BitVec.getLsbD_or,
      BitVec.getLsbD_not, hset, hclear, hlt, decide_true, Bool.or_false, Bool.not_false, Bool.and_true]
  · simp [BitVec.getLsbD_of_ge _ j (Nat.le_of_not_lt hlt)]

/-- With OUTLEN 0 every byte of OUT reads 0 (R74). -/
theorem exec_rd_out_of_outlen_zero {s : State} (h : s.outlen = 0#8) (k : Fin 131) (d : Word) :
    exec (.rd (BitVec.ofNat 12 (0x200 + k.val)) d) s = .next (s.respond 0#64) := by
  have hk : ¬k.val < s.outlen.toNat := by simp [h]
  rw [readOfOutIsHiddenBeyondOutlen s d k, if_neg hk]
  rfl

/-- Settles O50. The code is no command's, so it decodes to an ILLEGAL, whose whole effect gives the frame, the
STATUS bits and the OUTLEN of 0 that hides every byte of OUT. -/
theorem illegalCodeRaisesIllcmd : Obligations.IllegalCodeRaisesIllcmd := by
  intro s c hc
  refine ⟨decode_cmd8_of_illegal (isCommandCode_of_illegal hc), illegalCommand c s, rfl,
    illegalCommand_eq c s, getLsbD_statusAfterIllegal_done s.status, getLsbD_statusAfterIllegal_illcmd s.status,
    fun _ hj => getLsbD_statusAfterIllegal_other s.status hj, exec_rd_out_of_outlen_zero rfl⟩

end Sys2Proof.Machine

/-! PROOF. The state after reset (70_reset_and_hazards.md R121): every register reads 0, so every read of a mapped
address returns 0. -/

namespace Sys2Proof.Machine

/-- Every operand register and string element reads 0 after reset (R121). -/
theorem readOperand_reset (r : OperandReg) : readOperand Operands.reset r = 0#64 := by
  cases r with
  | strA i => exact congrArg zext64 (Vector.getElem_replicate i.isLt)
  | strB i => exact congrArg zext64 (Vector.getElem_replicate i.isLt)
  | _ => rfl

/-- Every register reads 0 after reset: an operand as it holds 0, a byte of OUT as OUTLEN is 0 (R74, R121). -/
theorem readReg_reset (r : HostReg) : readReg State.reset r = 0#64 := by
  cases r with
  | operand r => exact readOperand_reset r
  | out i =>
    have hi : ¬i.val < State.reset.outlen.toNat := Nat.not_lt_zero i.val
    rw [readReg, readOut, if_neg hi]
    rfl
  | _ => rfl

/-- A host read of a mapped address returns a register and changes nothing else (R74, R75). -/
theorem exec_rd_mapped {a : HostAddr} (h : unmappedAddr a = false) (d : Word) (s : State) :
    ∃ r, exec (.rd a d) s = .next (s.respond (readReg s r)) := by
  obtain ⟨r, -, hread⟩ | ⟨hnone, -⟩ := execRd_cases a d s
  · exact ⟨r, hread⟩
  · rw [(regAt_eq_none_iff a).mp hnone] at h
    cases h

/-- Settles O1. A read of a mapped address returns a register, and every register reads 0 after reset. -/
theorem resetZeroesEveryRegister : Obligations.ResetZeroesEveryRegister := by
  refine ⟨rfl, rfl, rfl, readOperand_reset, fun a d ha => ?_⟩
  obtain ⟨r, hread⟩ := exec_rd_mapped ha d State.reset
  rw [hread, readReg_reset]
  rfl

end Sys2Proof.Machine

/-! PROOF. The register map is one-to-one (10_state.md R19), and the class of an address is its register's. -/

namespace Sys2Proof.Machine

/-- A register stands at its own address alone (R19). -/
theorem addrOf_of_regAt {a : HostAddr} {r : HostReg} (h : regAt a = some r) : addrOf r = a := by
  apply BitVec.eq_of_toNat_eq
  -- Each branch of the map becomes a condition on the address beside the register that it names.
  simp only [regAt, ite_eq_iff, dite_eq_iff, Option.some.injEq, reduceCtorEq, exists_false, or_false] at h
  casesm* _ ∨ _, _ ∧ _, ∃ _, _
  all_goals
    subst r
    simp only [addrOf, BitVec.toNat_ofNat]
    omega

theorem regAt_eq_some_iff {a : HostAddr} {r : HostReg} : regAt a = some r ↔ a = addrOf r :=
  ⟨fun h => (addrOf_of_regAt h).symm, fun h => h ▸ regAt_addrOf r⟩

/-- Settles O18. Each clause is the register map's own lemma: every register stands at its address, at no other,
and the ranges of R19 are those of the map. -/
theorem registerMapNamesEachRegisterOnce : Obligations.RegisterMapNamesEachRegisterOnce :=
  ⟨regAt_addrOf, fun _ _ => addrOf_of_regAt, regAt_eq_none_iff, regAt_operand_iff⟩

/-- A mapped address is a register's. -/
theorem exists_regAt {a : HostAddr} (h : unmappedAddr a = false) : ∃ r, regAt a = some r := by
  rw [← Option.ne_none_iff_exists', ne_eq, regAt_eq_none_iff, h]
  decide

/-- At the addresses of R73, and at no others, stand the read-only registers. -/
theorem regAt_readOnly_iff (a : HostAddr) :
    (regAt a = some .outlen ∨ ∃ i, regAt a = some (.out i)) ↔ readOnlyAddr a = true := by
  -- Each branch of the map becomes a condition on the address, and the two conditions are the same ranges.
  simp [regAt, readOnlyAddr, ite_eq_iff, dite_eq_iff]
  omega

/-- From the string elements on every operand has 16 bits. -/
theorem addrWidth_of_ge {a : HostAddr} (h : 0x100 ≤ a.toNat) : addrWidth a = 16 := by
  simp only [addrWidth]
  rw [if_neg (by omega), if_neg (by omega)]

/-- The width that R19 gives an operand's address is the operand's. -/
theorem addrWidth_addrOf (r : OperandReg) : addrWidth (addrOf (.operand r)) = operandWidth r := by
  cases r with
  | strA i => exact addrWidth_of_ge (by simp only [addrOf, BitVec.toNat_ofNat]; omega)
  | strB i => exact addrWidth_of_ge (by simp only [addrOf, BitVec.toNat_ofNat]; omega)
  | _ => rfl

end Sys2Proof.Machine

/-! PROOF. What every instruction does, said once: the effect that its code or address selects, and that effect on the
state (30_encoding.md R56, R61; 40_host_access.md R68 to R76; 42_packet_commands.md R96 to R101). -/

namespace Sys2Proof.Machine

/-- The packet that a code builds, by R57's map; empty for an illegal code. -/
def commandPacket (c : Byte) (p : Params) (o : Operands) : List Byte :=
  if c = 0x01#8 then loginPacket p o
  else if c = 0x02#8 then setBlockPacket p o
  else if c = 0x03#8 then positionPacket p o
  else if c = 0x04#8 then messagePacket p o
  else []

theorem commandPacket_length (c : Byte) (p : Params) (o : Operands) :
    (commandPacket c p o).length = packetLength c := by
  simp only [commandPacket, apply_ite List.length, loginPacket_length, setBlockPacket_length,
    positionPacket_length, messagePacket_length, List.length_nil, packetLength]

theorem packetLength_le (c : Byte) : packetLength c ≤ 131 := by
  unfold packetLength
  split_ifs <;> decide

/-- Only a command's code has a packet, as every command's packet has a byte. -/
theorem packetLength_eq_zero_iff (c : Byte) : packetLength c = 0 ↔ isCommandCode c = false := by
  rw [← Bool.not_eq_true, isCommandCode_iff]
  unfold packetLength
  split_ifs <;> simp_all

theorem packetLength_toNat (c : Byte) : (BitVec.ofNat 8 (packetLength c)).toNat = packetLength c := by
  have := packetLength_le c
  rw [BitVec.toNat_ofNat]
  omega

theorem runCode_of_command {c : Byte} (h : isCommandCode c = true) (s : State) :
    runCode c s = .next (completeCommand c (commandPacket c s.params s.operands) s) := by
  obtain rfl | rfl | rfl | rfl := (isCommandCode_iff c).mp h <;> rfl

/-- What an instruction does to the block, with its code or its address looked up. -/
inductive Effect where
  /-- A command runs (R96). -/
  | command (c : Byte)
  /-- A code that is no command's is issued (R101). -/
  | illegal (c : Byte)
  /-- A register is read (R74, R75). -/
  | read (r : HostReg)
  /-- An unmapped address is read (R76). -/
  | badRead
  /-- An operand is stored (R70). -/
  | store (r : OperandReg) (d : Word)
  /-- STATUS bits are cleared (R72). -/
  | acknowledge (d : Word)
  /-- A read-only register or an unmapped address is written (R73, R76). -/
  | badWrite

/-- The state after an effect. -/
def Effect.apply : Effect → State → State
  | .command c, s => completeCommand c (commandPacket c s.params s.operands) s
  | .illegal c, s => illegalCommand c s
  | .read r, s => s.respond (readReg s r)
  | .badRead, s => (raise .badacc s).respond 0
  | .store r d, s => storeOperand r d s
  | .acknowledge d, s => Machine.acknowledge d s
  | .badWrite, s => raise .badacc s

/-- The effect of issuing a code (R57, R58). -/
def codeEffect (c : Byte) : Effect := if isCommandCode c then .command c else .illegal c

/-- The effect of a host read, by the register at its address. -/
def readEffect : Option HostReg → Effect
  | some r => .read r
  | none => .badRead

/-- The effect of a host write, by the register at its address. -/
def writeEffect (d : Word) : Option HostReg → Effect
  | some (.operand r) => .store r d
  | some .cmd => codeEffect (d.setWidth 8)
  | some .status => .acknowledge d
  | some .outlen => .badWrite
  | some (.out _) => .badWrite
  | none => .badWrite

/-- The effect that an instruction selects. -/
def effectOf : Instr → Effect
  | .login => .command 0x01#8
  | .setBlock => .command 0x02#8
  | .position => .command 0x03#8
  | .message => .command 0x04#8
  | .illegal c => .illegal c
  | .rd a _ => readEffect (regAt a)
  | .wr a d => writeEffect d (regAt a)

theorem runCode_eq_apply (c : Byte) (s : State) : runCode c s = .next ((codeEffect c).apply s) := by
  unfold codeEffect
  cases h : isCommandCode c with
  | true => exact runCode_of_command h s
  | false => exact runCode_of_illegal h s

/-- Every instruction completes, with the effect that it selects. -/
theorem exec_eq_apply (i : Instr) (s : State) : exec i s = .next ((effectOf i).apply s) := by
  cases i with
  | login => rfl
  | setBlock => rfl
  | position => rfl
  | message => rfl
  | illegal c => rfl
  | rd a d =>
    obtain ⟨r, hr, h⟩ | ⟨hr, h⟩ := execRd_cases a d s <;> rw [effectOf, hr] <;> exact h
  | wr a d =>
    obtain ⟨r, hr, h⟩ | ⟨hr, h⟩ | ⟨hr, h⟩ | ⟨hr | hr | ⟨i, hr⟩, h⟩ := execWr_cases a d s <;>
      rw [effectOf, hr]
    · exact h
    · exact h.trans (runCode_eq_apply _ s)
    all_goals exact h

/-- The code that an effect issues to the serializer. -/
def Effect.code : Effect → Option Byte
  | .command c => some c
  | .illegal c => some c
  | _ => none

theorem code_codeEffect (c : Byte) : (codeEffect c).code = some c := by
  unfold codeEffect
  split <;> rfl

/-- A well-formed instruction that issues a code has that code's effect. -/
theorem effectOf_of_issued {i : Instr} {c : Byte} (hwf : i.wellFormed = true)
    (hc : issuedCode i = some c) : effectOf i = codeEffect c := by
  cases i with
  | login => cases hc; rfl
  | setBlock => cases hc; rfl
  | position => cases hc; rfl
  | message => cases hc; rfl
  | rd a d => cases hc
  | wr a d =>
    obtain ⟨rfl, rfl⟩ : a = 0x000#12 ∧ d.setWidth 8 = c := by simpa [issuedCode] using hc
    rfl
  | illegal code =>
    have hcode : isCommandCode code = false := by simpa [Instr.wellFormed] using hwf
    cases hc
    simp [effectOf, codeEffect, hcode]

/-- A code reaches the block through a command, an ILLEGAL or a host write to CMD, and no other way (R56, R71). -/
theorem effectOf_code {i : Instr} (h : issuedCode i = none) : (effectOf i).code = none := by
  cases i with
  | login => cases h
  | setBlock => cases h
  | position => cases h
  | message => cases h
  | illegal c => cases h
  | rd a d => rw [effectOf]; cases regAt a <;> rfl
  | wr a d =>
    have ha : regAt a ≠ some .cmd := by
      rintro hr
      rw [regAt_eq_some_iff] at hr
      simp [issuedCode, hr, addrOf] at h
    rw [effectOf]
    cases hr : regAt a with
    | none => rfl
    | some r =>
      cases r with
      | cmd => exact absurd hr ha
      | _ => rfl

end Sys2Proof.Machine

/-! PROOF. The invariant of the reachable states (10_state.md R21, R22, R30; 42_packet_commands.md R96 to R101): reset
meets it, and every effect that a decoded instruction can have keeps it. -/

namespace Sys2Proof.Machine

/-- A command's code selects a command and any other code an ILLEGAL, as of every decoded instruction. -/
def Effect.LegalCode : Effect → Prop
  | .command c => isCommandCode c = true
  | .illegal c => isCommandCode c = false
  | _ => True

theorem codeEffect_legalCode (c : Byte) : (codeEffect c).LegalCode := by
  unfold codeEffect
  cases h : isCommandCode c with
  | true => exact h
  | false => exact h

theorem effectOf_legalCode {i : Instr} (h : i.wellFormed = true) : (effectOf i).LegalCode := by
  cases hc : issuedCode i with
  | some c =>
    rw [effectOf_of_issued h hc]
    exact codeEffect_legalCode c
  | none =>
    have hcode := effectOf_code hc
    cases he : effectOf i with
    | command c => simp [he, Effect.code] at hcode
    | illegal c => simp [he, Effect.code] at hcode
    | _ => trivial

theorem decode_hostTx_wellFormed (tx : HostTx) : (decode (.hostTx tx)).wellFormed = true := by
  cases h : tx.getLsbD 76 with
  | true => rw [decode_hostTx_of_write h]; rfl
  | false => rw [decode_hostTx_of_read h]; rfl

theorem reserved_statusSet {st m : Byte} (h : st &&& 0xF8#8 = 0#8) (hm : m &&& 0xF8#8 = 0#8) :
    statusSet st m &&& 0xF8#8 = 0#8 := by
  rw [statusSet, BitVec.and_or_distrib_right, h, hm, BitVec.or_self]

theorem reserved_statusClear {st : Byte} (h : st &&& 0xF8#8 = 0#8) (m : Byte) :
    statusClear st m &&& 0xF8#8 = 0#8 := by
  rw [statusClear, BitVec.and_assoc, BitVec.and_comm (~~~m), ← BitVec.and_assoc, h, BitVec.zero_and]

theorem statusDone_statusClear {st m : Byte} (h : statusDone (statusClear st m) = true) :
    statusDone st = true := by
  rw [statusDone, statusClear, BitVec.getLsbD_and, Bool.and_eq_true] at h
  exact h.1

theorem statusDone_badacc (st : Byte) : statusDone (statusSet st (eventMask .badacc)) = statusDone st := by
  simp [statusDone, statusSet, eventMask]

/-- The invariant's clause on the reserved bits (R21). -/
theorem StateInv.reserved {s : State} (h : StateInv s) : s.status &&& 0xF8#8 = 0#8 := by
  obtain ⟨hres, -⟩ := h
  exact hres

/-- The invariant speaks of no operand, port event or response, and of STATUS only as to DONE and the reserved
bits. -/
theorem StateInv.frame {s : State} (h : StateInv s) {v : Byte} (hres : v &&& 0xF8#8 = 0#8)
    (hdone : statusDone v = true → statusDone s.status = true) (o : Operands) (evs : List PortEvent)
    (rs : List Word) :
    StateInv { s with status := v, operands := o, port := evs, responses := rs } := by
  obtain ⟨-, hlen, hd, hheader, hslots⟩ := h
  exact ⟨hres, hlen, fun hv => hd (hdone hv), hheader, hslots⟩

theorem stateInv_applyReset (s : State) : StateInv (applyReset s) := by
  rw [applyReset_eq]
  have hdone : ¬statusDone 0#8 = true := by decide
  refine ⟨BitVec.zero_and, rfl, fun h => absurd h hdone, ?_, ?_⟩
  · simp [headerOk]
  · simp [slotsOk]

/-- Settles O2. The state after reset is what a reset makes of itself. -/
theorem resetMeetsTheInvariant : Obligations.ResetMeetsTheInvariant := stateInv_applyReset State.reset

/-- A byte that a text slot can hold: ASCII or NONASCII_BYTE (R78, R80). -/
def IsTextByte (n b : Byte) : Prop := b.toNat < 0x80 ∨ b = n

theorem isTextByte_asc (n : Byte) (c : CodeUnit) : IsTextByte n (asc n c) := by
  by_cases h : c.toNat < 0x80
  · exact .inl (((asciiMapperMapsAsListed n c).1 h).trans_lt h)
  · exact .inr (asc_of_not_ascii n (Nat.not_lt.mp h))

theorem slot_isTextByte (n : Byte) (buf : Vector CodeUnit 64) (len : Nat) (k : Fin 64) :
    ∃ b, (slot n buf len)[k.val]? = some b ∧ IsTextByte n b := by
  refine ⟨_, slot_getElem? n buf len k k.isLt, ?_⟩
  split
  · exact isTextByte_asc n _
  · exact .inl (by decide)

theorem loginPacket_isTextByte (p : Params) (o : Operands) {i : Nat} (h2 : 2 ≤ i) (hi : i < 130) :
    ∃ b, (loginPacket p o)[i]? = some b ∧ IsTextByte p.nonasciiByte b := by
  by_cases hA : i < 66
  · have h := loginPacket_slotA p o ⟨i - 2, by omega⟩
    rw [Nat.add_sub_cancel' h2] at h
    exact h ▸ slot_isTextByte _ _ _ _
  · have h := loginPacket_slotB p o ⟨i - 66, by omega⟩
    rw [Nat.add_sub_cancel' (Nat.not_lt.mp hA)] at h
    exact h ▸ slot_isTextByte _ _ _ _

theorem messagePacket_isTextByte (p : Params) (o : Operands) {i : Nat} (h2 : 2 ≤ i) (hi : i < 66) :
    ∃ b, (messagePacket p o)[i]? = some b ∧ IsTextByte p.nonasciiByte b := by
  have h := messagePacket_slot p o ⟨i - 2, by omega⟩
  rw [Nat.add_sub_cancel' h2] at h
  exact h ▸ slot_isTextByte _ _ _ _

/-- A command leaves its packet's fixed bytes at their offsets (R97 to R100). -/
theorem headerOk_command (c : Byte) (s : State) : headerOk ((Effect.command c).apply s) := by
  refine ⟨?_, ?_, ?_, ?_⟩ <;> rintro (rfl : c = _)
  · exact ⟨completeCommand_outbuf _ s _ rfl, completeCommand_outbuf _ s _ rfl,
      completeCommand_outbuf _ s _ (loginPacket_last _ _)⟩
  · exact completeCommand_outbuf _ s _ rfl
  · exact ⟨completeCommand_outbuf _ s _ rfl, completeCommand_outbuf _ s _ rfl⟩
  · exact ⟨completeCommand_outbuf _ s _ rfl, completeCommand_outbuf _ s _ rfl⟩

/-- A command leaves text bytes alone in its packet's text slots (R97, R100). -/
theorem slotsOk_command (c : Byte) (s : State) : slotsOk ((Effect.command c).apply s) := by
  refine ⟨?_, ?_⟩ <;> rintro (rfl : c = _) i h2 hi
  · obtain ⟨b, hb, htext⟩ := loginPacket_isTextByte s.params s.operands h2 hi
    exact (completeCommand_outbuf 0x01#8 s i.isLt hb).symm ▸ htext
  · obtain ⟨b, hb, htext⟩ := messagePacket_isTextByte s.params s.operands h2 hi
    exact (completeCommand_outbuf 0x04#8 s i.isLt hb).symm ▸ htext

/-- A command leaves OUTLEN the length of its packet (R96). -/
theorem outlen_command (c : Byte) (s : State) :
    ((Effect.command c).apply s).outlen = BitVec.ofNat 8 (packetLength c) :=
  congrArg (BitVec.ofNat 8) (commandPacket_length c _ _)

theorem stateInv_command {c : Byte} (hc : isCommandCode c = true) {s : State} (h : StateInv s) :
    StateInv ((Effect.command c).apply s) := by
  refine ⟨reserved_statusSet h.reserved (by decide), ?_, fun _ hzero => ?_, headerOk_command c s, slotsOk_command c s⟩
  · rw [outlen_command, packetLength_toNat]
    rfl
  · have hlen : packetLength c = 0 := by
      rw [← packetLength_toNat, ← outlen_command c s, hzero]
      rfl
    rw [packetLength_eq_zero_iff, hc] at hlen
    cases hlen

theorem stateInv_illegal {c : Byte} (hc : isCommandCode c = false) {s : State} (h : StateInv s) :
    StateInv ((Effect.illegal c).apply s) := by
  have hne {k : Byte} (hk : isCommandCode k = true) : c ≠ k := fun e => by simp [e, hk] at hc
  refine ⟨reserved_statusClear (reserved_statusSet h.reserved (by decide)) _, ?_, fun hdone => ?_, ?_, ?_⟩
  · exact ((packetLength_eq_zero_iff c).mpr hc).symm
  · have := getLsbD_statusAfterIllegal_done s.status
    cases this.symm.trans hdone
  · exact ⟨fun e => absurd e (hne rfl), fun e => absurd e (hne rfl), fun e => absurd e (hne rfl),
      fun e => absurd e (hne rfl)⟩
  · exact ⟨fun e => absurd e (hne rfl), fun e => absurd e (hne rfl)⟩

/-- Every effect that a decoded instruction can have keeps the invariant. -/
theorem Effect.apply_stateInv {e : Effect} (he : e.LegalCode) {s : State} (h : StateInv s) :
    StateInv (e.apply s) := by
  have hbad := h.frame (reserved_statusSet (m := eventMask .badacc) h.reserved (by decide))
    (fun hv => statusDone_badacc s.status ▸ hv) s.operands s.port
  cases e with
  | command c => exact stateInv_command he h
  | illegal c => exact stateInv_illegal he h
  | read r => exact h.frame h.reserved id _ _ _
  | badRead => exact hbad _
  | store r d => exact h.frame h.reserved id _ _ _
  | acknowledge d => exact h.frame (reserved_statusClear h.reserved _) statusDone_statusClear _ _ _
  | badWrite => exact hbad _

/-- Settles O3. A step is idle, a reset, the effect of a decoded transaction, or a reset with at most a response. -/
theorem everyStepKeepsTheInvariant : Obligations.EveryStepKeepsTheInvariant := by
  intro s t h hstep
  obtain ⟨-, rfl⟩ | ⟨rest, -, rfl⟩ | ⟨tx, rest, -, hexec⟩ | ⟨tx, rest, -, rfl⟩ := step_cases hstep
  · exact h
  · exact stateInv_applyReset _
  · rw [exec_eq_apply] at hexec
    cases hexec
    exact Effect.apply_stateInv (effectOf_legalCode (decode_hostTx_wellFormed tx)) (h.frame h.reserved id _ rest _)
  · have hreset := stateInv_applyReset (s.setPort rest)
    unfold accessUnderReset
    split
    · exact hreset
    · exact hreset.frame hreset.reserved id _ _ _

end Sys2Proof.Machine

/-! PROOF. OUTBUF bytes at or beyond OUTLEN are never observable (10_state.md R30, I9): every effect, so every step and
every run, keeps two states alike in all else. -/

namespace Sys2Proof.Machine

/-- Two states alike in all the host can see are one state with two values of OUTBUF. -/
theorem SameVisible.exists_setOutbuf {s t : State} (h : SameVisible s t) :
    ∃ b : Vector Byte 131, t = s.setOutbuf b ∧
      ∀ i : Fin 131, i.val < s.outlen.toNat → b[i] = s.outbuf[i] :=
  ⟨t.outbuf, h.1, h.2⟩

/-- A visible byte of OUT reads as it stands (R74). -/
theorem readOut_of_lt {s : State} {i : Fin 131} (h : i.val < s.outlen.toNat) :
    readOut s i = zext64 s.outbuf[i] := if_pos h

/-- A hidden byte of OUT reads 0 (R74). -/
theorem readOut_of_not_lt {s : State} {i : Fin 131} (h : ¬i.val < s.outlen.toNat) : readOut s i = 0 :=
  if_neg h

/-- What a register reads does not depend on the hidden bytes (R74). -/
theorem readReg_setOutbuf {s : State} {b : Vector Byte 131}
    (h : ∀ i : Fin 131, i.val < s.outlen.toNat → b[i] = s.outbuf[i]) (r : HostReg) :
    readReg (s.setOutbuf b) r = readReg s r := by
  cases r with
  | out i =>
    have hlen : (s.setOutbuf b).outlen = s.outlen := rfl
    by_cases hi : i.val < s.outlen.toNat
    · have hb : zext64 (s.setOutbuf b).outbuf[i] = zext64 s.outbuf[i] := congrArg zext64 (h i hi)
      exact (readOut_of_lt (hlen ▸ hi)).trans (hb.trans (readOut_of_lt hi).symm)
    · exact (readOut_of_not_lt (hlen ▸ hi)).trans (readOut_of_not_lt hi).symm
  | _ => rfl

/-- Both states after a command hold its packet below its length, which is then OUTLEN. -/
theorem outbuf_command_visible (c : Byte) (s : State) (b : Vector Byte 131) (i : Fin 131)
    (hi : i.val < ((Effect.command c).apply s).outlen.toNat) :
    ((Effect.command c).apply (s.setOutbuf b)).outbuf[i] = ((Effect.command c).apply s).outbuf[i] := by
  have hlt : i.val < (commandPacket c s.params s.operands).length := by
    rwa [commandPacket_length, ← packetLength_toNat, ← outlen_command c s]
  exact (overlay_get_lt _ b i i.isLt hlt).trans (overlay_get_lt _ s.outbuf i i.isLt hlt).symm

/-- A command does the same to every other register, whatever OUTBUF held. -/
theorem command_setOutbuf (c : Byte) (s : State) (b : Vector Byte 131) :
    (Effect.command c).apply (s.setOutbuf b) = { (Effect.command c).apply s with
      outbuf := ((Effect.command c).apply (s.setOutbuf b)).outbuf } := by
  simp only [Effect.apply, completeCommand_eq, State.setOutbuf_params, State.setOutbuf_operands]
  rfl

theorem Effect.apply_sameVisible (e : Effect) {s t : State} (h : SameVisible s t) :
    SameVisible (e.apply s) (e.apply t) := by
  obtain ⟨b, rfl, hb⟩ := h.exists_setOutbuf
  cases e with
  | command c => exact ⟨command_setOutbuf c s b, outbuf_command_visible c s b⟩
  | illegal c => exact ⟨rfl, fun i hi => absurd hi (Nat.not_lt_zero i.val)⟩
  | read r =>
    refine ⟨?_, hb⟩
    simp only [Effect.apply, readReg_setOutbuf hb]
    rfl
  | badRead => exact ⟨rfl, hb⟩
  | store r d => exact ⟨rfl, hb⟩
  | acknowledge d => exact ⟨rfl, hb⟩
  | badWrite => exact ⟨rfl, hb⟩

theorem exec_sameVisible (i : Instr) {s t : State} (h : SameVisible s t) :
    SameVisibleOutcome (exec i s) (exec i t) := by
  rw [exec_eq_apply, exec_eq_apply]
  exact (effectOf i).apply_sameVisible h

theorem SameVisible.refl (s : State) : SameVisible s s := ⟨rfl, fun _ _ => rfl⟩

/-- A step keeps two states alike in all the host can see, and ends the same way in both. -/
theorem step_sameVisible {s t : State} (h : SameVisible s t) : SameVisibleOutcome (step s) (step t) := by
  obtain ⟨b, rfl, hb⟩ := h.exists_setOutbuf
  have hport : (s.setOutbuf b).port = s.port := rfl
  have hrest (rest : List PortEvent) : SameVisible (s.setPort rest) ((s.setOutbuf b).setPort rest) := ⟨rfl, hb⟩
  cases hp : s.port with
  | nil =>
    rw [step_idle hp, step_idle (hport.trans hp)]
    exact h
  | cons ev rest =>
    cases ev with
    | reset =>
      rw [step_reset hp, step_reset (hport.trans hp)]
      exact SameVisible.refl _
    | access agent tx =>
      rw [step_access hp, step_access (hport.trans hp), State.setOutbuf_host]
      split
      · exact exec_sameVisible _ (hrest rest)
      · rfl
    | accessInReset agent tx =>
      rw [step_accessInReset hp, step_accessInReset (hport.trans hp), State.setOutbuf_host]
      split
      · exact SameVisible.refl (accessUnderReset tx (s.setPort rest))
      · rfl

theorem run_succ_of_next {s t : State} (h : step s = .next t) (n : Nat) :
    core.run (n + 1) s = core.run n t := by
  have h' : core.step s = .next t := h
  simp only [Host.Core.run, h']

theorem run_succ_of_refused {s : State} {r : Refusal} (h : step s = .refused r) (n : Nat) :
    core.run (n + 1) s = .refused r := by
  have h' : core.step s = .refused r := h
  simp only [Host.Core.run, h']

/-- Settles O11, by induction on the number of steps. -/
theorem staleOutputBytesAreNeverObservable : Obligations.StaleOutputBytesAreNeverObservable := by
  intro n
  induction n with
  | zero => exact fun s t h => h
  | succ n ih =>
    intro s t h
    have hstep := step_sameVisible h
    cases hs : step s with
    | fault f => cases f
    | next s' =>
      cases ht : step t with
      | fault f => cases f
      | next t' =>
        rw [hs, ht] at hstep
        rw [run_succ_of_next hs, run_succ_of_next ht]
        exact ih s' t' hstep
      | refused q =>
        rw [hs, ht] at hstep
        exact hstep.elim
    | refused r =>
      cases ht : step t with
      | fault f => cases f
      | next t' =>
        rw [hs, ht] at hstep
        exact hstep.elim
      | refused q =>
        rw [hs, ht] at hstep
        rw [run_succ_of_refused hs, run_succ_of_refused ht]
        exact hstep

end Sys2Proof.Machine

/-! PROOF. The decoder and the encoder are inverse to each other, and both agree with the opcode table
(30_encoding.md R56 to R62). -/

namespace Sys2Proof

/-- Settles O12. Each instruction is decoded from its own code or from its word's three fields. -/
theorem encodeThenDecodeIsIdentity : Obligations.EncodeThenDecodeIsIdentity := by
  intro i hwf
  cases i with
  | login => rfl
  | setBlock => rfl
  | position => rfl
  | message => rfl
  | rd a d => exact decode_hostTxWord false a d
  | wr a d => exact decode_hostTxWord true a d
  | illegal c =>
    have hc : isCommandCode c = false := by simpa [Instr.wellFormed] using hwf
    exact Machine.decode_cmd8_of_illegal hc

/-- The three fields make up the whole word (R61). -/
theorem hostTxWord_txFields (tx : HostTx) : hostTxWord (txWE tx) (txAddr tx) (txData tx) = tx := by
  apply BitVec.eq_of_toNat_eq
  have hlt := tx.isLt
  have hwe : (txWE tx).toNat = tx.toNat / 2 ^ 76 % 2 := Nat.toNat_testBit tx.toNat 76
  rw [hostTxWord_toNat', hwe, txAddr, txData, BitVec.extractLsb'_toNat, BitVec.extractLsb'_toNat,
    Nat.shiftRight_eq_div_pow, Nat.shiftRight_zero]
  omega

/-- A command code decodes to the instruction that issues it, and that instruction encodes to it. -/
theorem decode_cmd8 (c : Byte) :
    (decode (.cmd8 c)).wellFormed = true ∧ encode (decode (.cmd8 c)) = .cmd8 c ∧
      Machine.issuedCode (decode (.cmd8 c)) = some c := by
  cases hc : isCommandCode c with
  | true => obtain rfl | rfl | rfl | rfl := (Machine.isCommandCode_iff c).mp hc <;> exact ⟨rfl, rfl, rfl⟩
  | false =>
    rw [Machine.decode_cmd8_of_illegal hc]
    exact ⟨by rw [Instr.wellFormed, hc]; rfl, rfl, rfl⟩

/-- Settles O13. A code is encoded as itself, and a transaction's three fields make up its word. -/
theorem decodeThenEncodeIsIdentity : Obligations.DecodeThenEncodeIsIdentity := by
  intro w
  cases w with
  | cmd8 c =>
    obtain ⟨hwf, henc, -⟩ := decode_cmd8 c
    exact ⟨hwf, henc⟩
  | hostTx tx =>
    refine ⟨Machine.decode_hostTx_wellFormed tx, ?_⟩
    have hfields := hostTxWord_txFields tx
    cases h : txWE tx with
    | true => rw [decode_hostTx_of_write h, encode, ← h, hfields]
    | false => rw [decode_hostTx_of_read h, encode, ← h, hfields]

/-- Settles O14. The codes of R57 are evaluated, one of R58 is no command's, and the illegal codes are counted. -/
theorem commandCodesDecodeAsTheMapSays : Obligations.CommandCodesDecodeAsTheMapSays :=
  ⟨rfl, rfl, rfl, rfl,
    fun _ hc => Machine.decode_cmd8_of_illegal (Machine.isCommandCode_of_illegal hc), by decide +kernel⟩

/-- Settles O16. Each word is evaluated. -/
theorem specWordsDecode : Obligations.SpecWordsDecode := by
  unfold Obligations.SpecWordsDecode
  decide +kernel

/-- The rows that accept an encoding are those of its instruction's mnemonic, for every instruction. -/
theorem tableRow (i : Instr) : Laws.TableRow.Statement i := by
  cases i with
  | login => exact Laws.TableRow.login
  | setBlock => exact Laws.TableRow.setBlock
  | position => exact Laws.TableRow.position
  | message => exact Laws.TableRow.message
  | rd a d => exact Laws.TableRow.rd a d
  | wr a d => exact Laws.TableRow.wr a d
  | illegal c => exact Laws.TableRow.illegal c

/-- The rows that accept a word, by the instruction that it decodes to. -/
theorem rows_of_word (w : CodeWord) :
    (opcodeRows.filter fun row => row.accepts w).map OpcodeRow.mnemonic =
      [(decode w).mnemonic].filter fun m => m != "ILLEGAL" := by
  obtain ⟨hwf, henc⟩ := decodeThenEncodeIsIdentity w
  have h := tableRow (decode w) hwf
  rwa [henc] at h

/-- No two rows of the table have one mnemonic. -/
theorem opcodeRows_mnemonic_inj : ∀ row ∈ opcodeRows, ∀ other ∈ opcodeRows,
    row.mnemonic = other.mnemonic → row = other := by decide

theorem opcodeRows_mnemonic_ne : ∀ row ∈ opcodeRows, row.mnemonic ≠ "ILLEGAL" := by decide

/-- A row's mnemonic is a decoded instruction's exactly where the row accepts the word. -/
theorem accepts_iff_mnemonic (w : CodeWord) {row : OpcodeRow} (hrow : row ∈ opcodeRows) :
    row.accepts w = true ↔ row.mnemonic = (decode w).mnemonic := by
  have hrows (m : String) : (∃ other ∈ opcodeRows, other.accepts w = true ∧ other.mnemonic = m) ↔
      m = (decode w).mnemonic ∧ m ≠ "ILLEGAL" := by
    simpa [and_assoc] using congrArg (m ∈ ·) (rows_of_word w)
  constructor
  · exact fun h => ((hrows row.mnemonic).mp ⟨row, hrow, h, rfl⟩).1
  · intro h
    obtain ⟨other, hother, hacc, hm⟩ := (hrows row.mnemonic).mpr ⟨h, opcodeRows_mnemonic_ne row hrow⟩
    rwa [← opcodeRows_mnemonic_inj other hother row hrow hm]

/-- Settles O17. Both clauses are read off the list of the rows that accept the word. -/
theorem decoderAgreesWithTheOpcodeTable : Obligations.DecoderAgreesWithTheOpcodeTable := by
  refine fun w => ⟨fun row hrow => accepts_iff_mnemonic w hrow, ?_⟩
  have hnil : (∀ row ∈ opcodeRows, row.accepts w = false) ↔
      (opcodeRows.filter fun row => row.accepts w) = [] := by simp
  rw [hnil, ← List.map_eq_nil_iff (f := OpcodeRow.mnemonic), rows_of_word]
  simp

end Sys2Proof

/-! PROOF. What every instruction keeps and how many responses it gives (30_encoding.md R61; 60_exceptions.md R105), and
the step by the oldest port event (20_memory.md R47, R53; 70_reset_and_hazards.md R119, R121, R122). -/

namespace Sys2Proof.Machine

/-- No effect changes the parameters, the host or what it has still to do. -/
theorem Effect.apply_frame (e : Effect) (s : State) :
    (e.apply s).params = s.params ∧ (e.apply s).host = s.host ∧ (e.apply s).port = s.port := by
  cases e <;> exact ⟨rfl, rfl, rfl⟩

/-- The responses that an effect gives. -/
def Effect.reply : Effect → State → List Word
  | .read r, s => [readReg s r]
  | .badRead, _ => [0]
  | _, _ => []

theorem Effect.apply_responses (e : Effect) (s : State) :
    (e.apply s).responses = s.responses ++ e.reply s := by
  cases e with
  | read r => rfl
  | badRead => rfl
  | _ => exact (List.append_nil s.responses).symm

theorem Effect.reply_of_code {e : Effect} {c : Byte} (h : e.code = some c) (s : State) : e.reply s = [] := by
  cases e with
  | command c => rfl
  | illegal c => rfl
  | _ => cases h

/-- A host read gives one response (R61). -/
theorem reply_rd (a : HostAddr) (d : Word) (s : State) : ((effectOf (.rd a d)).reply s).length = 1 := by
  rw [effectOf]
  cases regAt a <;> rfl

/-- A host write gives none (R61). -/
theorem reply_wr (a : HostAddr) (d : Word) (s : State) : (effectOf (.wr a d)).reply s = [] := by
  rw [effectOf]
  cases regAt a with
  | none => rfl
  | some r =>
    cases r with
    | cmd => exact Effect.reply_of_code (code_codeEffect _) s
    | _ => rfl

/-- Settles O31. Every instruction is its effect; a host read alone replies. -/
theorem everyInstructionCompletes : Obligations.EveryInstructionCompletes := by
  intro s i
  refine ⟨_, _, exec_eq_apply i s, (effectOf i).apply_responses s, ?_, (effectOf i).apply_frame s⟩
  cases i with
  | rd a d => exact reply_rd a d s
  | wr a d => rw [reply_wr, List.length_nil]
  | _ => rfl

/-- Issuing a command code is running it, whatever instruction carries it (R56, R57, R58). -/
theorem exec_decode_cmd8 (c : Byte) (s : State) : exec (decode (.cmd8 c)) s = runCode c s := by
  obtain ⟨hwf, -, hcode⟩ := decode_cmd8 c
  exact exec_eq_runCode hwf hcode s

/-- A host write to CMD is the command in its data's low byte (R71). -/
theorem exec_wr_cmd (d : Word) (s : State) :
    exec (.wr 0x000#12 d) s = exec (decode (.cmd8 (d.extractLsb' 0 8))) s := by
  rw [exec_decode_cmd8, ← BitVec.setWidth_eq_extractLsb' (by decide)]
  rfl

theorem execAll_cons (i : Instr) (is : List Instr) (s : State) :
    execAll (i :: is) s = execAll is ((effectOf i).apply s) := by
  rw [execAll, exec_eq_apply]

theorem execAll_singleton (i : Instr) (s : State) : execAll [i] s = exec i s := by
  rw [execAll_cons, execAll, exec_eq_apply]

/-- Settles O27. A host write to CMD is its low byte's command, and each pseudo-instruction is one such write. -/
theorem cmdWriteRunsTheCodeInItsLowByte : Obligations.CmdWriteRunsTheCodeInItsLowByte :=
  ⟨fun s d => exec_wr_cmd d s, fun s => ⟨execAll_singleton _ s, execAll_singleton _ s, execAll_singleton _ s,
    execAll_singleton _ s⟩⟩

/-- An access by the machine's host is its instruction, once it is taken from the port (R47). -/
theorem step_hostAccess {s : State} {tx : HostTx} {rest : List PortEvent}
    (h : s.port = .access s.host tx :: rest) : step s = exec (decode (.hostTx tx)) (s.setPort rest) := by
  rw [step_access h, if_pos rfl]

/-- Settles O6. The data byte of a write to CMD stands in the word's low eight bits. -/
theorem stepRunsTheOldestAccess : Obligations.StepRunsTheOldestAccess := by
  intro s tx rest hp
  refine ⟨step_hostAccess hp, fun hwe haddr => ?_⟩
  have hbyte : (txData tx).extractLsb' 0 8 = tx.extractLsb' 0 8 := by
    apply BitVec.eq_of_toNat_eq
    simp only [txData, BitVec.extractLsb'_toNat, Nat.shiftRight_zero]
    omega
  rw [step_hostAccess hp, decode_hostTx_of_write hwe, show txAddr tx = 0x000#12 from haddr, exec_wr_cmd, hbyte]
  rfl

/-- The word placed for a code or a transaction runs that code's or transaction's instruction (R64). -/
theorem exec_decode_portWord (w : CodeWord) (s : State) :
    exec (decode (.hostTx (portWord w))) s = exec (decode w) s := by
  cases w with
  | hostTx tx => rfl
  | cmd8 c =>
    have hcode : (zext64 c).extractLsb' 0 8 = c := by
      apply BitVec.eq_of_toNat_eq
      simp only [BitVec.extractLsb'_toNat, BitVec.toNat_setWidth, Nat.shiftRight_zero]
      have := c.isLt
      omega
    rw [portWord, decode_hostTxWord, if_pos rfl, exec_wr_cmd, hcode]

/-- Settles O10. The placed access is the oldest one, and taking it gives the state before placing. -/
theorem placedWordRunsItsInstruction : Obligations.PlacedWordRunsItsInstruction := by
  intro s nbits w i h
  cases hw : readWord nbits w with
  | error e => simp [decodeTableWord, hw] at h
  | ok word =>
    have hi : decode word = i := by simpa [decodeTableWord, hw] using h
    have htx : tableTransaction nbits w = portWord word := by simp only [tableTransaction, hw]
    rw [State.withFetchWord, htx, ← hi, ← exec_decode_portWord word s]
    exact step_hostAccess rfl

/-- Settles O7. With no event to take, a step answers the same state. -/
theorem idlePortHoldsEverything : Obligations.IdlePortHoldsEverything := fun _ => step_idle

/-- Settles O8. The agent is looked at first, for an access under reset too. -/
theorem secondHostAccessIsRefused : Obligations.SecondHostAccessIsRefused := by
  intro s agent tx rest hne hp
  obtain hp | hp := hp
  · rw [step_access hp, if_neg hne]
  · rw [step_accessInReset hp, if_neg hne]

/-- Settles O4. The step is the reset of the state with the event taken from the port. -/
theorem resetEventZeroesEveryRegister : Obligations.ResetEventZeroesEveryRegister := fun _ _ hp =>
  ⟨_, step_reset hp, rfl, rfl, rfl, readOperand_reset, rfl, rfl, rfl, rfl⟩

/-- An access under reset resets, and gives the response 0 where it is a read (R122). -/
theorem accessUnderReset_eq (tx : HostTx) (s : State) :
    accessUnderReset tx s = { applyReset s with
      responses := s.responses ++ (if tx.getLsbD 76 then [] else [0#64]) } := by
  rw [accessUnderReset, txWE]
  split
  · rw [List.append_nil]
    rfl
  · rfl

/-- Settles O5. Both steps reset the state with its oldest event taken from the port. -/
theorem accessUnderResetHasNoEffect : Obligations.AccessUnderResetHasNoEffect := by
  intro s tx rest hp
  refine ⟨_, step_reset rfl, ?_⟩
  rw [step_accessInReset hp, if_pos rfl, accessUnderReset_eq]
  rfl

/-- The hosts of the later events are those of a safe run. -/
theorem oneHost_rest {s : State} (h : oneHost s = true) {ev : PortEvent} {rest : List PortEvent}
    (hp : s.port = ev :: rest) {t : State} (hport : t.port = rest) (hhost : t.host = s.host) :
    oneHost t = true := by
  rw [oneHost, hp, List.all_cons, Bool.and_eq_true] at h
  rw [oneHost, hport, hhost]
  exact h.2

/-- Settles O9. The oldest event is a reset or an access by the machine's host, so the step completes, and what
it leaves on the port are the later events. -/
theorem oneHostStepsAlwaysComplete : Obligations.OneHostStepsAlwaysComplete := by
  intro s h
  cases hp : s.port with
  | nil => exact ⟨s, step_idle hp, h, hp, rfl, rfl, [], (List.append_nil _).symm, by decide⟩
  | cons ev rest =>
    cases ev with
    | reset =>
      exact ⟨_, step_reset hp, oneHost_rest h hp rfl rfl, rfl, rfl, rfl, [], (List.append_nil _).symm, by decide⟩
    | access agent tx =>
      obtain rfl : agent = s.host := by
        simp [oneHost, hp] at h
        exact h.1
      obtain ⟨t, r, hexec, hresp, hr, hparams, hhost, hport⟩ :=
        everyInstructionCompletes (s.setPort rest) (decode (.hostTx tx))
      refine ⟨t, (step_hostAccess hp).trans hexec, oneHost_rest h hp hport hhost, hport, hparams, hhost, r,
        hresp, ?_⟩
      rw [hr]
      split <;> decide
    | accessInReset agent tx =>
      obtain rfl : agent = s.host := by
        simp [oneHost, hp] at h
        exact h.1
      have hstep : step s = .next (accessUnderReset tx (s.setPort rest)) := by
        rw [step_accessInReset hp, if_pos rfl]
      rw [accessUnderReset_eq] at hstep
      refine ⟨_, hstep, oneHost_rest h hp rfl rfl, rfl, rfl, rfl, _, rfl, ?_⟩
      split <;> decide

end Sys2Proof.Machine

/-! PROOF. What a host access does to CMD, the packet, STATUS and the reads that follow it (10_state.md R20, R21;
20_memory.md R44; 40_host_access.md R77; 70_reset_and_hazards.md R126, R127). -/

namespace Sys2Proof.Machine

theorem codeEffect_of_command {c : Byte} (h : isCommandCode c = true) : codeEffect c = .command c := if_pos h

theorem codeEffect_of_illegal {c : Byte} (h : isCommandCode c = false) : codeEffect c = .illegal c :=
  if_neg (ne_true_of_eq_false h)

/-- An effect that issues no code keeps the packet and CMD. -/
theorem Effect.apply_keeps_packet {e : Effect} (h : e.code = none) (s : State) :
    (e.apply s).outlen = s.outlen ∧ (e.apply s).outbuf = s.outbuf ∧ (e.apply s).cmd = s.cmd := by
  cases e with
  | command c => cases h
  | illegal c => cases h
  | _ => exact ⟨rfl, rfl, rfl⟩

/-- Settles O54. An instruction that issues no code has an effect that issues none. -/
theorem packetOutlivesEveryOtherAccess : Obligations.PacketOutlivesEveryOtherAccess := fun s i hi =>
  ⟨_, exec_eq_apply i s, Effect.apply_keeps_packet (effectOf_code hi) s⟩

/-- Each code, legal or not, is left in CMD (R20). -/
theorem cmd_codeEffect (c : Byte) (s : State) : ((codeEffect c).apply s).cmd = c := by
  unfold codeEffect
  split <;> rfl

/-- Settles O28. Every issued code is left in CMD, and an effect that issues none keeps it. -/
theorem cmdReadsBackTheLastCode : Obligations.CmdReadsBackTheLastCode := by
  refine ⟨fun s d => ?_, fun s i hi => ?_, rfl⟩
  · have hcmd : ((codeEffect (d.setWidth 8)).apply s).cmd = d.extractLsb' 0 8 := by
      rw [cmd_codeEffect, BitVec.setWidth_eq_extractLsb' (by decide)]
    have hread : zext64 (d.extractLsb' 0 8) = BitVec.ofNat 64 (d.toNat % 256) := by
      apply BitVec.eq_of_toNat_eq
      simp only [BitVec.toNat_setWidth, BitVec.extractLsb'_toNat, Nat.shiftRight_zero, BitVec.toNat_ofNat]
    refine ⟨_, exec_eq_apply (.wr 0x000#12 d) s, hcmd, fun e => ?_⟩
    refine (exec_rd_addrOf .cmd e _).trans ?_
    rw [← hread, ← hcmd]
    rfl
  · obtain ⟨-, -, hcmd⟩ := Effect.apply_keeps_packet (effectOf_code hi) s
    exact ⟨_, exec_eq_apply i s, hcmd⟩

/-- A response adds to what the host has read and changes no register. -/
theorem readReg_respond (s : State) (v : Word) (r : HostReg) : readReg (s.respond v) r = readReg s r := by
  cases r <;> rfl

/-- A host read of a mapped address, by the register there. -/
theorem exec_rd_of_regAt {a : HostAddr} {r : HostReg} (h : regAt a = some r) (d : Word) (s : State) :
    exec (.rd a d) s = .next (s.respond (readReg s r)) := by
  rw [exec_eq_apply, effectOf, h]
  rfl

/-- Settles O26. The second read finds the register as the first one did. -/
theorem readsAreIdempotent : Obligations.ReadsAreIdempotent := by
  intro s a d e ha
  obtain ⟨r, hr⟩ := exists_regAt ha
  refine ⟨readReg s r, _, exec_rd_of_regAt hr d s, rfl, ?_⟩
  rw [exec_rd_of_regAt hr, readReg_respond]
  simp only [State.respond, List.append_assoc, List.cons_append, List.nil_append]

/-- A store leaves every other register's reading (R77). -/
theorem readReg_storeOperand_other {r : OperandReg} {q : HostReg} (h : q ≠ .operand r) (d : Word) (s : State) :
    readReg (storeOperand r d s) q = readReg s q := by
  cases q with
  | operand q => exact readOperand_writeOperand_other s.operands r q d fun e => h (congrArg HostReg.operand e)
  | _ => rfl

/-- The second of two stores to one operand stands (R77). -/
theorem storeOperand_storeOperand (r : OperandReg) (d e : Word) (s : State) :
    storeOperand r e (storeOperand r d s) = storeOperand r e s := by
  rw [storeOperand_eq, storeOperand_eq, storeOperand_eq, writeOperand_writeOperand]

/-- Settles O25. Each clause is the store's own law, with the registers told apart by their addresses. -/
theorem readAfterWriteReturnsTheWrite : Obligations.ReadAfterWriteReturnsTheWrite := by
  intro s a d ha
  obtain ⟨r, hr⟩ := (regAt_operand_iff a).mpr ha
  refine ⟨storeOperand r d s, exec_wr_operand hr d s, fun e => ?_, fun b e hba hb => ?_, fun e => ?_⟩
  · have hread : readReg (storeOperand r d s) (.operand r) = BitVec.ofNat 64 (d.toNat % 2 ^ addrWidth a) := by
      rw [regAt_eq_some_iff.mp hr, addrWidth_addrOf]
      exact readOperand_writeOperand_same s.operands r d
    rw [exec_rd_of_regAt hr, hread]
    rfl
  · obtain ⟨q, hq⟩ := exists_regAt hb
    have hqr : q ≠ .operand r := by
      rintro rfl
      exact hba ((regAt_eq_some_iff.mp hq).trans (regAt_eq_some_iff.mp hr).symm)
    refine ⟨readReg s q, exec_rd_of_regAt hq e s, ?_⟩
    rw [exec_rd_of_regAt hq, readReg_storeOperand_other hqr]
    rfl
  · rw [exec_wr_operand hr, exec_wr_operand hr, storeOperand_storeOperand]

/-- The effects of the accesses that raise BADACC (R107). -/
def Effect.isBad : Effect → Bool
  | .badRead => true
  | .badWrite => true
  | _ => false

/-- The STATUS bits that an effect selects for clearing (R72). -/
def Effect.clears : Effect → Nat → Bool
  | .acknowledge d, j => decide (j < 3) && d.getLsbD j
  | _, _ => false

theorem Effect.isBad_of_code {e : Effect} {c : Byte} (h : e.code = some c) : e.isBad = false := by
  cases e with
  | badRead => cases h
  | badWrite => cases h
  | _ => rfl

theorem Effect.clears_of_code {e : Effect} {c : Byte} (h : e.code = some c) (j : Nat) : e.clears j = false := by
  cases e with
  | acknowledge d => cases h
  | _ => rfl

theorem unmappedAddr_eq (a : HostAddr) : unmappedAddr a = (regAt a).isNone := by
  rw [Bool.eq_iff_iff, ← regAt_eq_none_iff, Option.isNone_iff_eq_none]

/-- The bad accesses of R107 are those whose effect raises BADACC. -/
theorem isBad_effectOf (i : Instr) : (effectOf i).isBad = isBadAccess i := by
  cases i with
  | rd a d =>
    rw [effectOf, isBadAccess, unmappedAddr_eq]
    cases regAt a <;> rfl
  | wr a d =>
    rw [effectOf, isBadAccess, unmappedAddr_eq, Bool.eq_iff_iff, Bool.or_eq_true, ← regAt_readOnly_iff]
    cases regAt a with
    | none => simp [writeEffect, Effect.isBad]
    | some r =>
      cases r with
      | cmd => simp [writeEffect, Effect.isBad_of_code (code_codeEffect _)]
      | _ => simp [writeEffect, Effect.isBad]
  | _ => rfl

/-- The write to STATUS is the access whose effect clears bits. -/
theorem clears_effectOf (i : Instr) (j : Nat) : (effectOf i).clears j = clearsStatusBit i j := by
  cases i with
  | rd a d =>
    rw [effectOf]
    cases regAt a <;> rfl
  | wr a d =>
    have hstatus : (a == 0x001#12) = decide (regAt a = some .status) := by
      rw [Bool.eq_iff_iff, decide_eq_true_eq, regAt_eq_some_iff, beq_iff_eq]
      rfl
    rw [effectOf, clearsStatusBit, hstatus]
    cases regAt a with
    | none => simp [writeEffect, Effect.clears]
    | some r =>
      cases r with
      | cmd => simp [writeEffect, Effect.clears_of_code (code_codeEffect _)]
      | _ => simp [writeEffect, Effect.clears]
  | _ => rfl

theorem getLsbD_doneMask (j : Nat) : doneMask.getLsbD j = decide (j = 0) := by
  rw [show doneMask = BitVec.twoPow 8 0 from rfl, BitVec.getLsbD_twoPow]
  simp [eq_comm]

theorem getLsbD_badaccMask (j : Nat) : (eventMask .badacc).getLsbD j = decide (j = 2) := by
  rw [show eventMask .badacc = BitVec.twoPow 8 2 from rfl, BitVec.getLsbD_twoPow]
  simp [eq_comm]

/-- A command sets DONE and keeps every other bit (R96). -/
theorem getLsbD_status_command (c : Byte) (s : State) (j : Nat) :
    ((Effect.command c).apply s).status.getLsbD j = (s.status.getLsbD j || decide (j = 0)) := by
  rw [← getLsbD_doneMask]
  exact BitVec.getLsbD_or

/-- A bad access sets BADACC and keeps every other bit (R107). -/
theorem getLsbD_raise_badacc (s : State) (j : Nat) :
    (raise .badacc s).status.getLsbD j = (s.status.getLsbD j || decide (j = 2)) := by
  rw [← getLsbD_badaccMask]
  exact BitVec.getLsbD_or

/-- STATUS after an effect, in the bits that issuing a code does not change: BADACC and the reserved bits, and the
others where no code is issued. -/
theorem Effect.getLsbD_status (e : Effect) (s : State) {j : Nat} (h : e.code = none ∨ 2 ≤ j) :
    (e.apply s).status.getLsbD j = ((e.isBad && decide (j = 2)) || (s.status.getLsbD j && !e.clears j)) := by
  cases e with
  | command c =>
    have hj : 2 ≤ j := h.resolve_left (by simp [Effect.code])
    rw [getLsbD_status_command, decide_eq_false (by omega : ¬j = 0)]
    simp [Effect.isBad, Effect.clears]
  | illegal c =>
    have hj : 2 ≤ j := h.resolve_left (by simp [Effect.code])
    exact (getLsbD_statusAfterIllegal_other s.status hj).trans (by simp [Effect.isBad, Effect.clears])
  | acknowledge d => exact (getLsbD_statusW1C s.status d j).trans (by simp [Effect.isBad, Effect.clears])
  | badRead => exact (getLsbD_raise_badacc s j).trans (by simp [Effect.isBad, Effect.clears, Bool.or_comm])
  | badWrite => exact (getLsbD_raise_badacc s j).trans (by simp [Effect.isBad, Effect.clears, Bool.or_comm])
  | read r => simp [Effect.apply, Effect.isBad, Effect.clears]
  | store r d => simp [Effect.apply, Effect.isBad, Effect.clears, storeOperand_eq]

/-- DONE and ILLCMD after an issued code (R96, R101). -/
theorem getLsbD_status_codeEffect (c : Byte) (s : State) :
    ((codeEffect c).apply s).status.getLsbD 0 = isCommandCode c ∧
      ((codeEffect c).apply s).status.getLsbD 1 = (s.status.getLsbD 1 || !isCommandCode c) := by
  cases h : isCommandCode c with
  | true =>
    rw [codeEffect_of_command h, getLsbD_status_command, getLsbD_status_command]
    simp
  | false =>
    rw [codeEffect_of_illegal h, Bool.not_false, Bool.or_true]
    exact ⟨getLsbD_statusAfterIllegal_done s.status, getLsbD_statusAfterIllegal_illcmd s.status⟩

/-- Settles O29. An issued code decides DONE and ILLCMD; every other bit is what the instruction's effect makes it. -/
theorem statusBitsChangeOnlyAsListed : Obligations.StatusBitsChangeOnlyAsListed := by
  intro s i hwf
  refine ⟨_, exec_eq_apply i s, fun c hc => ?_, fun hi => ?_, ?_, fun j hj => ?_⟩
  · rw [effectOf_of_issued hwf hc]
    exact getLsbD_status_codeEffect c s
  · rw [Effect.getLsbD_status _ s (.inl (effectOf_code hi)), Effect.getLsbD_status _ s (.inl (effectOf_code hi)),
      clears_effectOf, clears_effectOf]
    simp
  · rw [Effect.getLsbD_status _ s (.inr le_rfl), isBad_effectOf, clears_effectOf]
    simp
  · have hclears : clearsStatusBit i j = false := by
      cases i <;> simp [clearsStatusBit, Nat.not_lt.mpr hj]
    rw [Effect.getLsbD_status _ s (.inr (by omega)), clears_effectOf, hclears, decide_eq_false (by omega : ¬j = 2)]
    simp

end Sys2Proof.Machine

/-! PROOF. The laws of the padder (41_datapath_primitives.md R81, R82), and of an issued code: the packet it leaves, what
it leaves beyond the packet, and what the packet depends on (42_packet_commands.md R96, R104; 30_encoding.md R59). -/

namespace Sys2Proof.Machine

/-- Two lists of one length are equal when their bytes below it are. -/
theorem eq_of_getElem?_lt {l m : List Byte} {n : Nat} (hl : l.length = n) (hm : m.length = n)
    (h : ∀ k < n, l[k]? = m[k]?) : l = m := by
  apply List.ext_getElem?
  intro k
  by_cases hk : k < n
  · exact h k hk
  · rw [List.getElem?_eq_none (by omega), List.getElem?_eq_none (by omega)]

theorem neff_of_le {len : Nat} (h : len ≤ 64) : neff len = len := Nat.min_eq_left h

/-- A slot of length 0 is all spaces (R81). -/
theorem slot_zero (n : Byte) (buf : Vector CodeUnit 64) : slot n buf 0 = List.replicate 64 0x20#8 := by
  refine eq_of_getElem?_lt (slot_length _ _ _) List.length_replicate fun k hk => ?_
  rw [slot_getElem? _ _ _ _ hk, neff_of_le (by decide), if_neg (Nat.not_lt_zero k), List.getElem?_replicate,
    if_pos hk]

/-- Spaces that end a text are as the padding that would stand there (R81). -/
theorem slot_trailing_spaces (n : Byte) {buf buf' : Vector CodeUnit 64} {len len' : Nat} (hle : len ≤ len')
    (h64 : len' ≤ 64) (hsame : ∀ k : Fin 64, k.val < len → buf'[k] = buf[k])
    (hspace : ∀ k : Fin 64, len ≤ k.val → k.val < len' → buf'[k] = 0x20#16) :
    slot n buf' len' = slot n buf len := by
  refine eq_of_getElem?_lt (slot_length _ _ _) (slot_length _ _ _) fun k hk => ?_
  rw [slot_getElem? _ _ _ _ hk, slot_getElem? _ _ _ _ hk, neff_of_le h64, neff_of_le (hle.trans h64)]
  by_cases hlen : k < len
  · have hk' : buf'[k] = buf[k] := hsame ⟨k, hk⟩ hlen
    rw [if_pos hlen, if_pos (hlen.trans_le hle), hk']
  · rw [if_neg hlen]
    split
    case isTrue hlen' =>
      have hk' : buf'[k] = 0x20#16 := hspace ⟨k, hk⟩ (Nat.not_lt.mp hlen) hlen'
      rw [hk', asc_of_ascii n (by decide)]
      rfl
    case isFalse => rfl

/-- Settles O35. The slot cuts its length at 64 itself. -/
theorem messageTruncationLaw : Obligations.MessageTruncationLaw := slot_min

/-- Settles O34. Each law compares the slots byte by byte. -/
theorem padderLaws : Obligations.PadderLaws := by
  refine fun n buf len => ⟨slot_length n buf len, fun hle hascii k => ?_, fun hgt => ?_,
    fun buf' len' hle h64 hsame hspace => slot_trailing_spaces n hle h64 hsame hspace, slot_zero n buf⟩
  · rw [slot_getElem? n buf len k k.isLt, neff_of_le hle]
    by_cases hk : k.val < len
    · rw [if_pos hk, if_pos hk]
      exact congrArg some (asc_of_ascii n (hascii k hk))
    · rw [if_neg hk, if_neg hk]
  · rw [← slot_min n buf len, Nat.min_eq_right hgt.le]

/-- The host sees a command's packet, whole and alone (R30, R96). -/
theorem visibleOut_command (c : Byte) (s : State) :
    visibleOut ((Effect.command c).apply s) = commandPacket c s.params s.operands := by
  have hlen := commandPacket_length c s.params s.operands
  have hle := packetLength_le c
  rw [visibleOut, outlen_command, packetLength_toNat, ← hlen]
  rw [← hlen] at hle
  apply List.ext_getElem
  · rw [List.length_take, Vector.length_toList, Nat.min_eq_left hle]
  · intro k h _
    have hk : k < (commandPacket c s.params s.operands).length := by
      rw [List.length_take] at h
      omega
    rw [List.getElem_take, Vector.getElem_toList]
    exact overlay_get_lt _ s.outbuf k (by omega) hk

/-- The host sees no packet after an illegal code (R101). -/
theorem visibleOut_illegal (c : Byte) (s : State) : visibleOut ((Effect.illegal c).apply s) = [] := rfl

/-- Settles O60. Both slots of LOGIN's packet are those of length 0. -/
theorem loginFromResetIsTheEmptyLogin : Obligations.LoginFromResetIsTheEmptyLogin := by
  refine ⟨_, exec_eq_apply .login State.reset, outlen_command 0x01#8 State.reset, ?_⟩
  have hspaces : List.replicate 128 0x20#8 = List.replicate 64 0x20#8 ++ List.replicate 64 0x20#8 := by
    rw [List.replicate_append_replicate]
  have hA : Operands.reset.lena.toNat = 0 := rfl
  have hB : Operands.reset.lenb.toNat = 0 := rfl
  refine (visibleOut_command 0x01#8 State.reset).trans ?_
  show loginPacket State.reset.params Operands.reset = _
  rw [loginPacket_eq, hA, hB, slot_zero, slot_zero, hspaces]
  simp only [List.cons_append, List.nil_append, List.append_assoc]

theorem outlen_codeEffect (c : Byte) (s : State) :
    ((codeEffect c).apply s).outlen = BitVec.ofNat 8 (packetLength c) := by
  cases h : isCommandCode c with
  | true =>
    rw [codeEffect_of_command h]
    exact outlen_command c s
  | false =>
    rw [codeEffect_of_illegal h, (packetLength_eq_zero_iff c).mpr h]
    rfl

/-- The bytes from the packet's length on are kept (log entry 6). -/
theorem outbuf_codeEffect_of_le (c : Byte) (s : State) (k : Fin 131) (h : packetLength c ≤ k.val) :
    ((codeEffect c).apply s).outbuf[k] = s.outbuf[k] := by
  unfold codeEffect
  split
  · rw [← commandPacket_length c s.params s.operands] at h
    exact overlay_get_ge _ s.outbuf k k.isLt h
  · rfl

/-- Settles O51. The packet's overlay keeps the bytes beyond it, and an illegal code keeps them all. -/
theorem bytesBeyondThePacketAreKept : Obligations.BytesBeyondThePacketAreKept := by
  intro s i c hwf hc
  refine ⟨_, exec_eq_apply i s, ?_⟩
  rw [effectOf_of_issued hwf hc, outlen_codeEffect]
  exact ⟨packetLength_toNat c, outbuf_codeEffect_of_le c s⟩

/-- A command again, on the operands that it has kept, packs the same bytes at the same offsets (R104). -/
theorem command_idempotent (c : Byte) (s : State) :
    (Effect.command c).apply ((Effect.command c).apply s) = (Effect.command c).apply s := by
  simp only [Effect.apply, completeCommand_eq, overlay_overlay, BitVec.or_assoc, BitVec.or_self]

theorem statusAfterIllegal_idempotent (st : Byte) :
    statusAfterIllegal (statusAfterIllegal st) = statusAfterIllegal st := by
  apply BitVec.eq_of_getLsbD_eq
  intro j _
  match j with
  | 0 => rw [getLsbD_statusAfterIllegal_done, getLsbD_statusAfterIllegal_done]
  | 1 => rw [getLsbD_statusAfterIllegal_illcmd, getLsbD_statusAfterIllegal_illcmd]
  | j + 2 => rw [getLsbD_statusAfterIllegal_other _ (Nat.le_add_left 2 j)]

theorem illegal_idempotent (c : Byte) (s : State) :
    (Effect.illegal c).apply ((Effect.illegal c).apply s) = (Effect.illegal c).apply s :=
  congrArg (fun v => { s with cmd := c, outlen := 0#8, status := v }) (statusAfterIllegal_idempotent s.status)

/-- Settles O52. The second issue finds the operands, and the packet below its length, as the first one left them. -/
theorem commandsAreIdempotent : Obligations.CommandsAreIdempotent := by
  intro s i hwf hi
  obtain ⟨c, hc⟩ := Option.ne_none_iff_exists'.mp hi
  refine ⟨_, exec_eq_apply i s, ?_⟩
  rw [exec_eq_apply, effectOf_of_issued hwf hc, codeEffect]
  split
  · rw [command_idempotent]
  · rw [illegal_idempotent]

/-- A register no wider than a host word is known from its reading. -/
theorem zext64_inj {w : Nat} (hw : w ≤ 64) {x y : BitVec w} (h : zext64 x = zext64 y) : x = y := by
  have hback := congrArg (BitVec.setWidth w) h
  rwa [BitVec.setWidth_setWidth_of_le _ hw, BitVec.setWidth_setWidth_of_le _ hw, BitVec.setWidth_eq,
    BitVec.setWidth_eq] at hback

/-- A string is known from its elements' readings. -/
theorem string_eq_of_zext64 {v w : Vector CodeUnit 64} (h : ∀ i : Fin 64, zext64 v[i] = zext64 w[i]) : v = w :=
  Vector.ext fun i hi => zext64_inj (by decide) (h ⟨i, hi⟩)

/-- The field of one axis uses the tie rule and the three values of NONFINITE_I16 alone (R89, R90). -/
theorem fixq_congr {p q : Params} (hties : p.roundTies = q.roundTies) (hnan : p.nonfiniteNaN = q.nonfiniteNaN)
    (hpos : p.nonfinitePosInf = q.nonfinitePosInf) (hneg : p.nonfiniteNegInf = q.nonfiniteNegInf) (t : F64) :
    fixq p t = fixq q t := by
  unfold fixq
  cases times32 t with
  | nan => exact hnan
  | inf n => rw [fieldOf_inf, fieldOf_inf, hpos, hneg]
  | fin n m => rw [fieldOf_fin, fieldOf_fin, hties]

/-- A command's packet is a function of what R59 lists for its code. -/
theorem commandPacket_congr {c : Byte} (hc : isCommandCode c = true) {p q : Params} {o u : Operands}
    (hparams : sameParamsFor c p q)
    (hreads : ∀ r : OperandReg, codeReads c r = true → readOperand o r = readOperand u r) :
    commandPacket c p o = commandPacket c q u := by
  obtain ⟨hlogin, hset, hpos, hmsg⟩ := hparams
  obtain rfl | rfl | rfl | rfl := (isCommandCode_iff c).mp hc
  · show loginPacket p o = loginPacket q u
    have hlena : o.lena = u.lena := zext64_inj (by decide) (hreads .lena rfl)
    have hlenb : o.lenb = u.lenb := zext64_inj (by decide) (hreads .lenb rfl)
    have hstra : o.stra = u.stra := string_eq_of_zext64 fun i => hreads (.strA i) rfl
    have hstrb : o.strb = u.strb := string_eq_of_zext64 fun i => hreads (.strB i) rfl
    rw [loginPacket, loginPacket, hlogin rfl, hlena, hlenb, hstra, hstrb]
  · show setBlockPacket p o = setBlockPacket q u
    have hx : o.sbx = u.sbx := zext64_inj (by decide) (hreads .sbx rfl)
    have hy : o.sby = u.sby := zext64_inj (by decide) (hreads .sby rfl)
    have hz : o.sbz = u.sbz := zext64_inj (by decide) (hreads .sbz rfl)
    have hmode : o.mode = u.mode := zext64_inj (by decide) (hreads .mode rfl)
    have hbtype : o.btype = u.btype := zext64_inj (by decide) (hreads .btype rfl)
    rw [setBlockPacket, setBlockPacket, hset rfl, hx, hy, hz, hmode, hbtype]
  · show positionPacket p o = positionPacket q u
    obtain ⟨hid, hties, hnan, hposInf, hnegInf⟩ := hpos rfl
    have hx : o.px = u.px := hreads .px rfl
    have hy : o.py = u.py := hreads .py rfl
    have hz : o.pz = u.pz := hreads .pz rfl
    have hyaw : o.yaw = u.yaw := zext64_inj (by decide) (hreads .yaw rfl)
    have hpitch : o.pitch = u.pitch := zext64_inj (by decide) (hreads .pitch rfl)
    simp only [positionPacket, hid, hx, hy, hz, hyaw, hpitch, fixq_congr hties hnan hposInf hnegInf]
  · show messagePacket p o = messagePacket q u
    obtain ⟨hid, hascii⟩ := hmsg rfl
    have hlena : o.lena = u.lena := zext64_inj (by decide) (hreads .lena rfl)
    have hstra : o.stra = u.stra := string_eq_of_zext64 fun i => hreads (.strA i) rfl
    rw [messagePacket, messagePacket, hid, hascii, hlena, hstra]

/-- What the host sees after an issued code is determined by what R59 lists for it. -/
theorem visibleOut_codeEffect_congr {c : Byte} {s t : State} (hparams : sameParamsFor c s.params t.params)
    (hreads : ∀ r : OperandReg, codeReads c r = true → readOperand s.operands r = readOperand t.operands r) :
    visibleOut ((codeEffect c).apply s) = visibleOut ((codeEffect c).apply t) := by
  cases h : isCommandCode c with
  | true =>
    rw [codeEffect_of_command h, visibleOut_command, visibleOut_command, commandPacket_congr h hparams hreads]
  | false => rw [codeEffect_of_illegal h, visibleOut_illegal, visibleOut_illegal]

/-- Settles O53. OUTLEN and CMD depend on the code alone, and the packet on what R59 lists for it. -/
theorem packetDependsOnlyOnListedOperands : Obligations.PacketDependsOnlyOnListedOperands := by
  intro s t i c hwf hc hparams hreads
  refine ⟨_, _, exec_eq_apply i s, exec_eq_apply i t, ?_⟩
  rw [effectOf_of_issued hwf hc, outlen_codeEffect, outlen_codeEffect, cmd_codeEffect, cmd_codeEffect]
  exact ⟨rfl, visibleOut_codeEffect_congr hparams hreads, rfl⟩

end Sys2Proof.Machine

/-! PROOF. The pseudo-instructions (30_encoding.md R65 to R67): LDC and CLRST, the readout RDPKT, and the loading of a
string by LDSTR. -/

namespace Sys2Proof.Machine

/-- `WR <operand>, <value>` alone is one store. -/
theorem execAll_wrReg_operand (r : OperandReg) (d : Word) (s : State) :
    execAll [wrReg (.operand r) d] s = .next (storeOperand r d s) :=
  (execAll_singleton _ s).trans (exec_wr_addrOf_operand r d s)

/-- Settles O59. LDC is one store of the wrapped literal, which in R66's range stands for the literal; CLRST is one
acknowledgement of all three bits. -/
theorem ldcAndClrstDoAsListed : Obligations.LdcAndClrstDoAsListed := by
  refine fun s => ⟨fun v hlo hhi => ⟨wrap16 v, ?_, ?_⟩, ?_⟩
  · rw [wrap16, BitVec.toInt_ofInt]
    exact Int.bmod_eq_of_le (by omega) (by omega)
  · have hlow : (zext64 (wrap16 v)).setWidth 16 = wrap16 v := by
      rw [BitVec.setWidth_setWidth_of_le _ (by decide), BitVec.setWidth_eq]
    simp only [Pseudo.expand, execAll_wrReg_operand, blockReg, storeOperand_eq, writeOperand, hlow, and_self]
  · exact (execAll_singleton _ s).trans (exec_wr_addrOf_status 0x07#64 s)

theorem execAll_of_next {i : Instr} {s t : State} (h : exec i s = .next t) (is : List Instr) :
    execAll (i :: is) s = execAll is t := by
  rw [execAll, h]

/-- The reads of OUT from byte `i` to the packet's end return the packet's bytes from there on (R54, R74). -/
theorem execAll_outReads (n : Nat) : ∀ (i : Nat) (s : State), i + n = s.outlen.toNat → s.outlen.toNat ≤ 131 →
    execAll (outReads i n) s = .next { s with
      responses := s.responses ++ ((visibleOut s).drop i).map fun b : Byte => b.setWidth 64 } := by
  induction n with
  | zero =>
    intro i s hi hlen
    have hdrop : (visibleOut s).drop i = [] := by
      rw [List.drop_eq_nil_iff, visibleOut, List.length_take]
      omega
    rw [outReads, execAll, hdrop, List.map_nil, List.append_nil]
  | succ n ih =>
    intro i s hi hlen
    have hi131 : i < 131 := by omega
    have hivis : i < (visibleOut s).length := by
      rw [visibleOut, List.length_take, Vector.length_toList]
      omega
    have hbyte : (visibleOut s)[i] = s.outbuf[i] := by
      simp only [visibleOut, List.getElem_take, Vector.getElem_toList]
    have hread : exec (rdReg (.out ⟨i, hi131⟩)) s = .next (s.respond (s.outbuf[i].setWidth 64)) := by
      rw [rdReg, exec_rd_addrOf, readReg, readOut_of_lt (by simp only; omega)]
      rfl
    have hi' : i + 1 + n = s.outlen.toNat := by omega
    rw [outReads, dif_pos hi131, execAll_of_next hread]
    refine (ih (i + 1) (s.respond _) hi' hlen).trans ?_
    rw [List.drop_eq_getElem_cons hivis, hbyte, List.map_cons, List.append_cons]
    rfl

/-- Settles O55. The first read returns OUTLEN, and the reads of OUT the packet from byte 0 on. -/
theorem readoutReturnsThePacket : Obligations.ReadoutReturnsThePacket := by
  intro s hlen
  have hread : exec (rdReg .outlen) s = .next (s.respond (s.outlen.setWidth 64)) := exec_rd_addrOf .outlen 0 s
  rw [Pseudo.expand, execAll_of_next hread]
  refine (execAll_outReads _ 0 (s.respond _) (Nat.zero_add _) hlen).trans ?_
  rw [List.drop_zero, List.append_cons]
  rfl

/-- The buffer of a string. -/
def getString (x : StringName) (o : Operands) : Vector CodeUnit 64 :=
  match x with
  | .A => o.stra
  | .B => o.strb

/-- The operands with another buffer for a string. -/
def setString (x : StringName) (v : Vector CodeUnit 64) (o : Operands) : Operands :=
  match x with
  | .A => { o with stra := v }
  | .B => { o with strb := v }

theorem getString_setString (x : StringName) (v : Vector CodeUnit 64) (o : Operands) :
    getString x (setString x v o) = v := by
  cases x <;> rfl

theorem setString_setString (x : StringName) (v w : Vector CodeUnit 64) (o : Operands) :
    setString x w (setString x v o) = setString x w o := by
  cases x <;> rfl

theorem setString_getString (x : StringName) (o : Operands) : setString x (getString x o) o = o := by
  cases x <;> rfl

/-- Storing a code unit to an element replaces it in the string's buffer (R70). -/
theorem writeOperand_elemReg (x : StringName) (i : Fin 64) (u : CodeUnit) (o : Operands) :
    writeOperand o (elemReg x i) (zext64 u) = setString x ((getString x o).set i u) o := by
  have hlow : (zext64 u).setWidth 16 = u := by
    rw [BitVec.setWidth_setWidth_of_le _ (by decide), BitVec.setWidth_eq]
  cases x <;> simp only [elemReg, writeOperand, hlow, setString, getString]

/-- The element writes from `i` on leave the text there, as far as the buffer goes, and keep every other element. -/
theorem execAll_elemWrites (x : StringName) (us : List CodeUnit) : ∀ (i : Nat) (s : State),
    ∃ v : Vector CodeUnit 64, execAll (elemWrites x i us) s = .next (s.setOperands (setString x v s.operands)) ∧
      ∀ k : Fin 64, v[k] = if k.val < i then (getString x s.operands)[k]
        else us.getD (k.val - i) (getString x s.operands)[k] := by
  induction us with
  | nil =>
    intro i s
    refine ⟨getString x s.operands, ?_, fun k => ?_⟩
    · rw [setString_getString]
      rfl
    · rw [List.getD_nil, ite_self]
  | cons u us ih =>
    intro i s
    by_cases hi : i < 64
    · obtain ⟨v, hv, hget⟩ := ih (i + 1) (storeOperand (elemReg x ⟨i, hi⟩) (zext64 u) s)
      rw [storeOperand, writeOperand_elemReg, State.setOperands_operands, setString_setString] at hv
      rw [storeOperand, writeOperand_elemReg, State.setOperands_operands, getString_setString] at hget
      refine ⟨v, ?_, fun k => ?_⟩
      · rw [elemWrites, dif_pos hi, wrReg, execAll_of_next (exec_wr_addrOf_operand _ _ s), storeOperand,
          writeOperand_elemReg]
        exact hv
      · have hset : ((getString x s.operands).set i u)[k] =
            if i = k.val then u else (getString x s.operands)[k] := Vector.getElem_set hi k.isLt
        refine (hget k).trans ?_
        obtain hlt | rfl | hgt := lt_trichotomy k.val i
        · rw [if_pos (by omega : k.val < i + 1), if_pos hlt]
          exact hset.trans (if_neg (by omega))
        · rw [if_pos (Nat.lt_succ_self k.val), if_neg (Nat.lt_irrefl k.val), Nat.sub_self, List.getD_cons_zero]
          exact hset.trans (if_pos rfl)
        · have hsub : k.val - i = k.val - (i + 1) + 1 := by omega
          rw [if_neg (by omega : ¬k.val < i + 1), if_neg (by omega : ¬k.val < i), hsub, List.getD_cons_succ]
          exact congrArg _ (hset.trans (if_neg (by omega)))
    · refine ⟨getString x s.operands, ?_, fun k => ?_⟩
      · rw [setString_getString, elemWrites, dif_neg hi]
        rfl
      · rw [if_pos (by omega)]

/-- The length that LDSTR stores (R65). -/
theorem lengthWord_toNat (n : Nat) :
    ((BitVec.ofNat 64 (min n 0xFFFF)).setWidth 16).toNat = min n 0xFFFF := by
  rw [BitVec.toNat_setWidth, BitVec.toNat_ofNat]
  omega

/-- LDSTR is the store of the length and then the element writes from 0 on (R65). -/
theorem execAll_ldstr (x : StringName) (text : List CodeUnit) (s : State) :
    execAll (Pseudo.ldstr x text).expand s = execAll (elemWrites x 0 text)
      (storeOperand (lenReg x) (BitVec.ofNat 64 (min text.length 0xFFFF)) s) :=
  execAll_of_next (exec_wr_addrOf_operand _ _ s) _

/-- Settles O56. The length is stored first, and then the elements from 0 on, which keep it. -/
theorem ldstrLoadsTheText : Obligations.LdstrLoadsTheText := by
  intro s x text
  obtain ⟨v, hv, hget⟩ :=
    execAll_elemWrites x text 0 (storeOperand (lenReg x) (BitVec.ofNat 64 (min text.length 0xFFFF)) s)
  refine ⟨_, (execAll_ldstr x text s).trans hv, ?_⟩
  cases x with
  | A => exact ⟨rfl, lengthWord_toNat _, hget⟩
  | B => exact ⟨rfl, lengthWord_toNat _, hget⟩

/-- The slot of a loaded text is its first 64 code units, mapped, and then spaces (R80). -/
theorem slot_of_text (n : Byte) {buf : Vector CodeUnit 64} {text : List CodeUnit} (d : Fin 64 → CodeUnit)
    (h : ∀ k : Fin 64, buf[k] = text.getD k.val (d k)) :
    slot n buf text.length = ((text.take 64).map fun c : CodeUnit =>
      if c.toNat < 0x80 then c.extractLsb' 0 8 else n) ++ List.replicate (64 - text.length) 0x20#8 := by
  have hlen : ((text.take 64).map fun c : CodeUnit =>
      if c.toNat < 0x80 then c.extractLsb' 0 8 else n).length = min 64 text.length := by
    rw [List.length_map, List.length_take]
  refine eq_of_getElem?_lt (slot_length _ _ _) ?_ fun k hk => ?_
  · rw [List.length_append, hlen, List.length_replicate]
    omega
  · rw [slot_getElem? _ _ _ _ hk]
    by_cases hkt : k < text.length
    · have hunit : buf[k] = text[k] := (h ⟨k, hk⟩).trans (List.getD_eq_getElem _ _ hkt)
      have hneff : k < neff text.length := Nat.lt_min.mpr ⟨hkt, hk⟩
      rw [if_pos hneff, List.getElem?_append_left (by omega), List.getElem?_map,
        List.getElem?_take_of_lt hk, List.getElem?_eq_getElem hkt, hunit, asc_eq]
      rfl
    · have hneff : ¬k < neff text.length := fun hlt => hkt (Nat.lt_min.mp hlt).1
      rw [if_neg hneff, List.getElem?_append_right (by omega), List.getElem?_replicate, if_pos (by omega)]

/-- The length register holds a length up to 65535, of which MESSAGE's slot uses 64 at most (R100). -/
theorem slot_stored_length (n : Byte) (buf : Vector CodeUnit 64) (len : Nat) :
    slot n buf (min (min len 0xFFFF) 64) = slot n buf len := by
  rw [Nat.min_assoc, Nat.min_eq_right (by decide : 64 ≤ 0xFFFF), slot_min]

/-- Settles O57. The loaded length and elements give the slot of the text's first 64 code units. -/
theorem loadedTextIsSerialized : Obligations.LoadedTextIsSerialized := by
  intro s text
  obtain ⟨t, ht, hframe, hlena, hstra⟩ := ldstrLoadsTheText s .A text
  refine ⟨t, _, ht, (execAll_singleton _ t).trans (exec_eq_apply .message t), ?_⟩
  have hparams : t.params = s.params := by rw [hframe]
  refine (visibleOut_command 0x04#8 t).trans ?_
  show messagePacket t.params t.operands = _
  rw [messagePacket, hlena, slot_stored_length, hparams, slot_of_text _ _ hstra, List.append_assoc]
  rfl

end Sys2Proof.Machine

/-! PROOF. The binary64 patterns and the magnitudes they stand for (41_datapath_primitives.md R83; 00_scope.md R14): a
pattern is its three fields, and `packF64` gives back the pattern of every finite value. -/

namespace Sys2Proof.Machine

theorem f64Pattern_toNat (neg : Bool) {e f : Nat} (he : e < 2048) (hf : f < 2 ^ 52) :
    (f64Pattern neg e f).toNat = neg.toNat * 2 ^ 63 + e * 2 ^ 52 + f := by
  rw [f64Pattern, BitVec.toNat_ofNat]
  cases neg
  · rw [if_neg Bool.false_ne_true, Bool.toNat_false]
    omega
  · rw [if_pos rfl, Bool.toNat_true]
    omega

/-- The weights of the sign bit and the exponent field. -/
theorem f64Fields_arith (n e f : Nat) (he : e < 2048) (hf : f < 2 ^ 52) :
    (n * 2 ^ 63 + e * 2 ^ 52 + f) / 2 ^ 63 = n ∧
    (n * 2 ^ 63 + e * 2 ^ 52 + f) / 2 ^ 52 % 2 ^ 11 = e ∧
    (n * 2 ^ 63 + e * 2 ^ 52 + f) % 2 ^ 52 = f := by
  omega

theorem getLsbD_f64Pattern (neg : Bool) {e f : Nat} (he : e < 2048) (hf : f < 2 ^ 52) :
    (f64Pattern neg e f).getLsbD 63 = neg := by
  obtain ⟨hneg, -, -⟩ := f64Fields_arith neg.toNat e f he hf
  rw [BitVec.getLsbD, f64Pattern_toNat neg he hf, Nat.testBit_eq_decide_div_mod_eq, hneg]
  cases neg <;> rfl

theorem expo_f64Pattern (neg : Bool) {e f : Nat} (he : e < 2048) (hf : f < 2 ^ 52) :
    ((f64Pattern neg e f).extractLsb' 52 11).toNat = e := by
  obtain ⟨-, hexpo, -⟩ := f64Fields_arith neg.toNat e f he hf
  rw [BitVec.extractLsb'_toNat, f64Pattern_toNat neg he hf, Nat.shiftRight_eq_div_pow, hexpo]

theorem frac_f64Pattern (neg : Bool) {e f : Nat} (he : e < 2048) (hf : f < 2 ^ 52) :
    ((f64Pattern neg e f).extractLsb' 0 52).toNat = f := by
  obtain ⟨-, -, hfrac⟩ := f64Fields_arith neg.toNat e f he hf
  rw [BitVec.extractLsb'_toNat, f64Pattern_toNat neg he hf, Nat.shiftRight_zero, hfrac]

/-- The datum of a pattern by its fields (R83). -/
theorem f64_f64Pattern (neg : Bool) {e f : Nat} (he : e < 2048) (hf : f < 2 ^ 52) :
    f64 (f64Pattern neg e f) = if e = 2047 then (if f = 0 then .inf neg else .nan)
      else if e = 0 then .fin neg f else .fin neg ((2 ^ 52 + f) * 2 ^ (e - 1)) := by
  simp only [f64, getLsbD_f64Pattern neg he hf, expo_f64Pattern neg he hf, frac_f64Pattern neg he hf]

/-- Settles O36. The three fields are taken out of the pattern as they were put in. -/
theorem binary64PatternValues : Obligations.Binary64PatternValues := fun neg _ _ he hf =>
  f64_f64Pattern neg he hf

/-- The last bit of a pattern is its fraction's. -/
theorem getLsbD_f64Pattern_zero (neg : Bool) {e f : Nat} (he : e < 2048) (hf : f < 2 ^ 52) :
    (f64Pattern neg e f).getLsbD 0 = decide (f % 2 = 1) := by
  rw [BitVec.getLsbD, f64Pattern_toNat neg he hf, Nat.testBit_zero]
  congr 1
  rw [eq_iff_iff]
  omega

/-- The last place of a magnitude: the number of bits beyond the 53 of a significand. -/
def lastPlace (m : Nat) : Nat := m.log2 + 1 - 53

/-- The significand of a magnitude, which binary64 keeps: its bits from the last place on. -/
def significand (m : Nat) : Nat := m / 2 ^ lastPlace m

theorem lastPlace_of_lt {m : Nat} (h : m < 2 ^ 53) : lastPlace m = 0 := by
  unfold lastPlace
  by_cases hm : m = 0
  · rw [hm, Nat.log2_zero]
  · have := (Nat.log2_lt hm).mpr h
    omega

theorem significand_lt (m : Nat) : significand m < 2 ^ 53 := by
  rw [significand, Nat.div_lt_iff_lt_mul (Nat.two_pow_pos _), ← pow_add]
  exact Nat.lt_log2_self.trans_le (Nat.pow_le_pow_right (by decide) (by unfold lastPlace; omega))

/-- A magnitude of at least 2^52 has a full significand (it is not subnormal). -/
theorem le_significand {m : Nat} (h : 2 ^ 52 ≤ m) : 2 ^ 52 ≤ significand m := by
  have hm : m ≠ 0 := by omega
  have hlog : 52 ≤ m.log2 := (Nat.le_log2 hm).mpr h
  rw [significand, Nat.le_div_iff_mul_le (Nat.two_pow_pos _), ← pow_add]
  calc 2 ^ (52 + lastPlace m) = 2 ^ m.log2 := by congr 1; unfold lastPlace; omega
    _ ≤ m := Nat.log2_self_le hm

theorem FitsSignificand.significand_mul {m : Nat} (h : FitsSignificand m) :
    significand m * 2 ^ lastPlace m = m := Nat.div_mul_cancel h.two_pow_dvd

/-- The fields that `packF64` writes for a subnormal magnitude. -/
theorem packF64_of_lt (neg : Bool) {m : Nat} (h : m < 2 ^ 52) : packF64 (.fin neg m) = f64Pattern neg 0 m :=
  if_pos h

/-- The fields that `packF64` writes for a normal magnitude. -/
theorem packF64_of_le (neg : Bool) {m : Nat} (h : 2 ^ 52 ≤ m) :
    packF64 (.fin neg m) = f64Pattern neg (lastPlace m + 1) (significand m - 2 ^ 52) := by
  have hplace : m.log2 - 52 = lastPlace m := by unfold lastPlace; omega
  rw [packF64, if_neg (Nat.not_lt.mpr h), significand, ← hplace]

theorem overflowUnits_eq : overflowUnits = 2 ^ 2098 := rfl

/-- The exponent field of a magnitude below 2^1024 is not that of an infinity. -/
theorem lastPlace_lt {m : Nat} (h : m < overflowUnits) : lastPlace m + 1 < 2047 := by
  unfold lastPlace
  by_cases hm : m = 0
  · rw [hm, Nat.log2_zero]
    decide
  · have := (Nat.log2_lt hm).mpr (overflowUnits_eq ▸ h)
    omega

/-- Every finite magnitude with a significand of at most 53 bits is the value of its pattern. -/
theorem f64_packF64 (neg : Bool) {m : Nat} (hfits : FitsSignificand m) (hlt : m < overflowUnits) :
    f64 (packF64 (.fin neg m)) = .fin neg m := by
  by_cases hsub : m < 2 ^ 52
  · rw [packF64_of_lt neg hsub]
    exact binary64PatternValues neg 0 m (by decide) hsub
  · have hnormal := Nat.not_lt.mp hsub
    have hle := le_significand hnormal
    have hsig := significand_lt m
    have hexpo := lastPlace_lt hlt
    rw [packF64_of_le neg hnormal, f64_f64Pattern neg (by omega) (by omega), if_neg hexpo.ne,
      if_neg (Nat.succ_ne_zero _), Nat.add_sub_cancel' hle, Nat.add_sub_cancel, hfits.significand_mul]

/-- The last bit of a finite value's pattern is its significand's. -/
theorem getLsbD_packF64_zero (neg : Bool) {m : Nat} (hlt : m < overflowUnits) :
    (packF64 (.fin neg m)).getLsbD 0 = decide (significand m % 2 = 1) := by
  by_cases hsub : m < 2 ^ 52
  · have hm : significand m = m := by
      rw [significand, lastPlace_of_lt (by omega), pow_zero, Nat.div_one]
    rw [packF64_of_lt neg hsub, getLsbD_f64Pattern_zero neg (by decide) hsub, hm]
  · have hnormal := Nat.not_lt.mp hsub
    have hle := le_significand hnormal
    have hsig := significand_lt m
    have hexpo := lastPlace_lt hlt
    have hparity : (significand m - 2 ^ 52) % 2 = significand m % 2 := by omega
    rw [packF64_of_le neg hnormal, getLsbD_f64Pattern_zero neg (by omega) (by omega), hparity]

end Sys2Proof.Machine

/-! PROOF. Rounding to binary64 is to the nearest value, of two equally near to the one with an even significand, and
overflows where the spec's general knowledge says (00_scope.md R14; 93_implementation_defined.md G2). -/

namespace Sys2Proof.Machine

/-- `rneQuot` is the floor or its successor, whichever is nearer, and of two equally near the even one. -/
theorem rneQuot_cases (num den : Nat) :
    (rneQuot num den = num / den ∧ 2 * (num % den) ≤ den ∧ (2 * (num % den) = den → num / den % 2 = 0)) ∨
    (rneQuot num den = num / den + 1 ∧ den ≤ 2 * (num % den) ∧ (2 * (num % den) = den → num / den % 2 = 1)) := by
  simp only [rneQuot]
  split_ifs <;> omega

theorem le_rneQuot (num den : Nat) : num / den ≤ rneQuot num den := by
  obtain ⟨h, -⟩ | ⟨h, -⟩ := rneQuot_cases num den <;> omega

/-- How far `d` times a number is from an exact numerator. -/
def gap (d : Nat) (v x : Int) : Nat := (d * v - x).natAbs

/-- No integer is nearer the quotient than `rneQuot`, and where another is as near `rneQuot` is even. -/
theorem rneQuot_nearest (num : Nat) {den : Nat} (hden : 0 < den) (j : Nat) :
    gap den (rneQuot num den) num ≤ gap den j num ∧
      (gap den (rneQuot num den) num = gap den j num → j ≠ rneQuot num den → rneQuot num den % 2 = 0) := by
  have hnum := Nat.div_add_mod num den
  have hmod := Nat.mod_lt num hden
  have hcases := rneQuot_cases num den
  generalize rneQuot num den = R, num / den = q, num % den = r at *
  have hsucc : den * (q + 1) = den * q + den := Nat.mul_succ den q
  have hj : j = q ∨ j = q + 1 ∨ den * j + den ≤ den * q ∨ den * q + 2 * den ≤ den * j := by
    obtain h | h | h | h : j = q ∨ j = q + 1 ∨ j + 1 ≤ q ∨ q + 2 ≤ j := by omega
    · exact .inl h
    · exact .inr (.inl h)
    · exact .inr (.inr (.inl (Nat.mul_succ den j ▸ Nat.mul_le_mul_left den h)))
    · have := Nat.mul_le_mul_left den h
      rw [Nat.mul_add, Nat.mul_comm den 2] at this
      exact .inr (.inr (.inr this))
  unfold gap
  rw [← Int.natCast_mul, ← Int.natCast_mul]
  obtain ⟨rfl, hle, htie⟩ | ⟨rfl, hle, htie⟩ := hcases <;> obtain rfl | rfl | hj | hj := hj <;> omega

/-- Above a power of two, the magnitudes with a significand of at most 53 bits lie on a grid. -/
theorem FitsSignificand.dvd_or_lt {m : Nat} (h : FitsSignificand m) (d : Nat) : 2 ^ d ∣ m ∨ m < 2 ^ (52 + d) := by
  obtain ⟨a, k, ha, rfl⟩ := h
  by_cases hk : d ≤ k
  · exact .inl (Dvd.dvd.mul_left (Nat.pow_dvd_pow 2 hk) a)
  · right
    calc a * 2 ^ k < 2 ^ 53 * 2 ^ k := Nat.mul_lt_mul_of_pos_right ha (Nat.two_pow_pos k)
      _ = 2 ^ (53 + k) := (Nat.pow_add 2 53 k).symm
      _ ≤ 2 ^ (52 + d) := Nat.pow_le_pow_right (by decide) (by omega)

/-- `roundUnits` rounds to a whole number of last places. -/
theorem roundUnits_eq (num den : Nat) : roundUnits num den =
    rneQuot num (den * 2 ^ lastPlace (num / den)) * 2 ^ lastPlace (num / den) := rfl

/-- The number of last places that `roundUnits` takes is at most 2^53, and at least 2^52 unless the last place is
that of the subnormals. -/
theorem rneQuot_lastPlace (num den : Nat) :
    rneQuot num (den * 2 ^ lastPlace (num / den)) ≤ 2 ^ 53 ∧
      (lastPlace (num / den) = 0 ∨ 2 ^ 52 ≤ num / (den * 2 ^ lastPlace (num / den))) := by
  have hsig := significand_lt (num / den)
  have hq : num / (den * 2 ^ lastPlace (num / den)) = significand (num / den) := by
    rw [significand, Nat.div_div_eq_div_mul]
  refine ⟨?_, ?_⟩
  · have := rneQuot_le num (den * 2 ^ lastPlace (num / den))
    omega
  · by_cases h : num / den < 2 ^ 53
    · exact .inl (lastPlace_of_lt h)
    · exact .inr (hq ▸ le_significand (by omega))

/-- A significand of full length is that of its magnitude at every exponent. -/
theorem significand_mul_two_pow {q : Nat} (hge : 2 ^ 52 ≤ q) (hlt : q < 2 ^ 53) (d : Nat) :
    significand (q * 2 ^ d) = q := by
  have hpos : q * 2 ^ d ≠ 0 := (Nat.mul_pos (by omega) (Nat.two_pow_pos d)).ne'
  have hlog : (q * 2 ^ d).log2 = 52 + d := by
    rw [Nat.log2_eq_iff hpos, Nat.pow_add, Nat.add_right_comm, Nat.pow_add]
    exact ⟨Nat.mul_le_mul_right _ hge, Nat.mul_lt_mul_of_pos_right hlt (Nat.two_pow_pos d)⟩
  have hplace : lastPlace (q * 2 ^ d) = d := by
    rw [lastPlace, hlog]
    omega
  rw [significand, hplace, Nat.mul_div_cancel _ (Nat.two_pow_pos d)]

/-- An even number of last places has an even significand; 2^53 of them are 2^52 of the next ones. -/
theorem significand_even {q d : Nat} (hle : q ≤ 2 ^ 53) (hge : d = 0 ∨ 2 ^ 52 ≤ q) (heven : q % 2 = 0) :
    significand (q * 2 ^ d) % 2 = 0 := by
  obtain rfl | hlt := hle.eq_or_lt
  · have hnext : 2 ^ 53 * 2 ^ d = 2 ^ 52 * 2 ^ (d + 1) := by ring
    rw [hnext, significand_mul_two_pow le_rfl (by decide)]
    decide
  · obtain rfl | hge := hge
    · rw [pow_zero, mul_one, significand, lastPlace_of_lt hlt, pow_zero, Nat.div_one]
      exact heven
    · rw [significand_mul_two_pow hge hlt]
      exact heven

/-- No value with a significand of at most 53 bits is nearer the quotient than `roundUnits`, and where another is as
near the significand is even. -/
theorem roundUnits_nearest_nat (num : Nat) {den m : Nat} (hden : 0 < den) (hm : FitsSignificand m) :
    gap den (roundUnits num den) num ≤ gap den m num ∧
      (gap den (roundUnits num den) num = gap den m num → m ≠ roundUnits num den →
        significand (roundUnits num den) % 2 = 0) := by
  have hgap (D k : Nat) : gap (den * D) k num = gap den (k * D : Nat) num := by
    unfold gap
    congr 2
    push_cast
    ring
  obtain ⟨hq, hplace⟩ := rneQuot_lastPlace num den
  rw [roundUnits_eq]
  generalize lastPlace (num / den) = d at *
  have hD : 0 < den * 2 ^ d := Nat.mul_pos hden (Nat.two_pow_pos d)
  have hfull : d = 0 ∨ 2 ^ 52 ≤ rneQuot num (den * 2 ^ d) :=
    hplace.imp_right fun h => h.trans (le_rneQuot num _)
  rw [← hgap]
  by_cases hdvd : 2 ^ d ∣ m
  · obtain ⟨j, rfl⟩ := hdvd
    obtain ⟨hle, htie⟩ := rneQuot_nearest num hD j
    rw [Nat.mul_comm (2 ^ d), ← hgap]
    exact ⟨hle, fun heq hne => significand_even hq hfull (htie heq fun h => hne (h ▸ rfl))⟩
  · -- Such a magnitude is below 2^52 last places, which are no more than the quotient and so nearer to it.
    have hd : d ≠ 0 := fun h => hdvd (h ▸ one_dvd m)
    have hmlt : den * m < den * 2 ^ d * 2 ^ 52 := by
      have hlt := Nat.mul_lt_mul_of_pos_left ((hm.dvd_or_lt d).resolve_left hdvd) hden
      rwa [Nat.add_comm, Nat.pow_add, ← Nat.mul_assoc] at hlt
    have hnum : den * 2 ^ d * 2 ^ 52 ≤ num := by
      rw [Nat.mul_comm]
      exact (Nat.le_div_iff_mul_le hD).mp (hplace.resolve_left hd)
    have hfar : gap (den * 2 ^ d) (2 ^ 52 : Nat) num < gap den m num := by
      unfold gap
      rw [← Int.natCast_mul, ← Int.natCast_mul]
      omega
    obtain ⟨hle, -⟩ := rneQuot_nearest num hD (2 ^ 52)
    exact ⟨hle.trans hfar.le, fun heq => absurd heq (hle.trans_lt hfar).ne⟩

theorem gap_neg (d : Nat) (v x : Int) : gap d (-v) (-x) = gap d v x := by
  rw [gap, gap, ← Int.natAbs_neg]
  congr 1
  ring

theorem fitsSignificand_zero : FitsSignificand 0 := ⟨0, 0, by decide, rfl⟩

/-- No value of either sign is nearer a positive quotient: a negative one is farther than 0. -/
theorem roundUnits_nearest_int (num : Nat) {den : Nat} (hden : 0 < den) {v : Int}
    (hv : FitsSignificand v.natAbs) :
    gap den (roundUnits num den) num ≤ gap den v num ∧
      (gap den (roundUnits num den) num = gap den v num → v ≠ (roundUnits num den : Nat) →
        significand (roundUnits num den) % 2 = 0) := by
  obtain hpos | hneg := le_or_gt 0 v
  · obtain ⟨m, rfl⟩ := Int.eq_ofNat_of_zero_le hpos
    obtain ⟨hle, htie⟩ := roundUnits_nearest_nat num hden hv
    exact ⟨hle, fun heq hne => htie heq fun h => hne (congrArg Nat.cast h)⟩
  · obtain ⟨hle, -⟩ := roundUnits_nearest_nat num hden fitsSignificand_zero
    have hfar : gap den (0 : Nat) num < gap den v num := by
      have hprod : (den : Int) * v < 0 := Int.mul_neg_of_pos_of_neg (Int.natCast_pos.mpr hden) hneg
      unfold gap
      rw [Nat.cast_zero, mul_zero]
      omega
    exact ⟨hle.trans hfar.le, fun heq => absurd heq (hle.trans_lt hfar).ne⟩

theorem units_true (m : Nat) : (F64.fin true m).units = -(F64.fin false m).units := rfl

/-- The same on either side of zero. -/
theorem roundUnits_nearest (neg : Bool) (num : Nat) {den : Nat} (hden : 0 < den) {v : Int}
    (hv : FitsSignificand v.natAbs) :
    gap den (F64.fin neg (roundUnits num den)).units (F64.fin neg num).units
        ≤ gap den v (F64.fin neg num).units ∧
      (gap den (F64.fin neg (roundUnits num den)).units (F64.fin neg num).units
        = gap den v (F64.fin neg num).units → v ≠ (F64.fin neg (roundUnits num den)).units →
        significand (roundUnits num den) % 2 = 0) := by
  cases neg with
  | false => exact roundUnits_nearest_int num hden hv
  | true =>
    obtain ⟨hle, htie⟩ := roundUnits_nearest_int num hden (v := -v) (by rwa [Int.natAbs_neg])
    have hv : gap den v (-(num : Int)) = gap den (-v) num := by rw [← gap_neg, neg_neg]
    rw [units_true, units_true]
    show gap den (-(roundUnits num den : Int)) (-(num : Int)) ≤ gap den v (-(num : Int)) ∧
      (gap den (-(roundUnits num den : Int)) (-(num : Int)) = gap den v (-(num : Int)) →
        v ≠ -(roundUnits num den : Int) → _)
    rw [gap_neg, hv]
    exact ⟨hle, fun heq hne => htie heq fun h => hne (by rw [← h, neg_neg])⟩

/-- A finite pattern's value has a significand of at most 53 bits. -/
theorem f64_units_fits {b : Word} (h : (f64 b).isFinite = true) : FitsSignificand (f64 b).units.natAbs := by
  cases hb : f64 b with
  | nan => simp [hb, F64.isFinite] at h
  | inf n => simp [hb, F64.isFinite] at h
  | fin n m =>
    rw [natAbs_units]
    exact f64_fits hb

/-- A rounded magnitude is finite where it is below 2^1024. -/
theorem ofRounded_isFinite (neg : Bool) (m : Nat) :
    (ofRounded neg m).isFinite = true ↔ m < overflowUnits := by
  rw [ofRounded, ← not_le]
  split
  case isTrue h => simp [F64.isFinite, h]
  case isFalse h => simp [F64.isFinite, h]

theorem ofRounded_of_lt (neg : Bool) {m : Nat} (h : m < overflowUnits) : ofRounded neg m = .fin neg m :=
  if_neg (Nat.not_le.mpr h)

theorem ofRounded_of_le (neg : Bool) {m : Nat} (h : overflowUnits ≤ m) : ofRounded neg m = .inf neg :=
  if_pos h

/-- What rounding a quotient to binary64 gives, where it is finite: the value of the pattern that `packF64` writes, to
which no finite pattern's value is nearer, and of two equally near the one whose last bit is 0. -/
theorem ofRounded_nearest {neg : Bool} {num den : Nat} (hden : 0 < den)
    (h : (ofRounded neg (roundUnits num den)).isFinite = true) :
    f64 (packF64 (ofRounded neg (roundUnits num den))) = ofRounded neg (roundUnits num den) ∧
    ∀ b : Word, (f64 b).isFinite = true →
      gap den (ofRounded neg (roundUnits num den)).units (F64.fin neg num).units
          ≤ gap den (f64 b).units (F64.fin neg num).units ∧
      (gap den (ofRounded neg (roundUnits num den)).units (F64.fin neg num).units
          = gap den (f64 b).units (F64.fin neg num).units →
        (f64 b).units ≠ (ofRounded neg (roundUnits num den)).units →
        (packF64 (ofRounded neg (roundUnits num den))).getLsbD 0 = false) := by
  have hlt := (ofRounded_isFinite neg _).mp h
  rw [ofRounded_of_lt neg hlt]
  refine ⟨f64_packF64 neg (roundUnits_fits num den) hlt, fun b hb => ?_⟩
  obtain ⟨hle, htie⟩ := roundUnits_nearest neg num hden (f64_units_fits hb)
  refine ⟨hle, fun heq hne => ?_⟩
  rw [getLsbD_packF64_zero neg hlt, htie heq hne]
  rfl

end Sys2Proof.Machine

/-! PROOF. Binary64 addition and LDF's literals (00_scope.md R14; 30_encoding.md R66): both are the rounding of an exact
value; and the rounding overflows half a last place below 2^1024. -/

namespace Sys2Proof.Machine

/-- Half the last place of the largest finite value: 2^970, in units. -/
def halfPlace : Nat := 2 ^ 2044

theorem overflowUnits_eq_halfPlaces : overflowUnits = 2 ^ 54 * halfPlace := by decide +kernel

/-- The largest finite value has an odd significand. -/
theorem significand_largest : significand (overflowUnits - 2 * halfPlace) % 2 = 1 := by decide +kernel

theorem fitsSignificand_overflowUnits : FitsSignificand overflowUnits :=
  ⟨1, 2098, by decide, by rw [overflowUnits, one_mul]⟩

theorem fitsSignificand_largest : FitsSignificand (overflowUnits - 2 * halfPlace) :=
  ⟨2 ^ 53 - 1, 2045, by decide, by decide +kernel⟩

/-- No finite value lies between the largest and 2^1024. -/
theorem FitsSignificand.le_largest {m : Nat} (h : FitsSignificand m) (hlt : m < overflowUnits) :
    m ≤ overflowUnits - 2 * halfPlace := by
  have hplace : 2 ^ 2045 = 2 * halfPlace := by decide +kernel
  have hbinade : 2 ^ (52 + 2045) = 2 ^ 53 * halfPlace := by decide +kernel
  have hdvd := h.dvd_or_lt 2045
  rw [hplace, hbinade] at hdvd
  rw [overflowUnits_eq_halfPlaces] at hlt ⊢
  generalize halfPlace = half at *
  obtain ⟨j, rfl⟩ | hsmall := hdvd
  · have hj : j < 2 ^ 53 := by
      refine Nat.lt_of_mul_lt_mul_left (a := 2 * half) ?_
      omega
    have := Nat.mul_le_mul_left (2 * half) (Nat.le_sub_one_of_lt hj)
    omega
  · omega

/-- A magnitude overflows exactly where it is at least half a last place below 2^1024. -/
theorem roundUnits_overflows_iff (num : Nat) :
    overflowUnits ≤ roundUnits num 1 ↔ overflowUnits - halfPlace ≤ num := by
  have hpos : 0 < halfPlace := by decide +kernel
  have hfits := roundUnits_fits num 1
  have hlarge := significand_largest
  obtain ⟨hle, htie⟩ := roundUnits_nearest_nat num one_pos fitsSignificand_overflowUnits
  obtain ⟨hle', -⟩ := roundUnits_nearest_nat num one_pos fitsSignificand_largest
  have hov := overflowUnits_eq_halfPlaces
  generalize roundUnits num 1 = R at *
  unfold gap at hle hle' htie
  rw [Nat.cast_one, one_mul, one_mul] at hle hle' htie
  constructor
  · intro h
    omega
  · intro h
    by_contra hlt
    have hR := hfits.le_largest (Nat.not_le.mp hlt)
    have hRlarge : R = overflowUnits - 2 * halfPlace := by omega
    have heven := htie (by omega) (by omega)
    rw [hRlarge, hlarge] at heven
    cases heven

theorem roundUnits_zero : roundUnits 0 1 = 0 := roundUnits_exact fitsSignificand_zero one_pos

/-- The sign of a sum: an exact zero sum is negative where both operands are (R85). -/
def sumSign (n m : Bool) (x : Int) : Bool := if x = 0 then n && m else decide (x < 0)

/-- Addition rounds the magnitude of the exact sum. -/
theorem addRNE64_fin (n m : Bool) (a b : Nat) :
    addRNE64 (.fin n a) (.fin m b) =
      ofRounded (sumSign n m ((F64.fin n a).units + (F64.fin m b).units))
        (roundUnits ((F64.fin n a).units + (F64.fin m b).units).natAbs 1) := by
  simp only [addRNE64, sumSign]
  generalize (F64.fin n a).units + (F64.fin m b).units = x
  split
  case isTrue h =>
    rw [h, Int.natAbs_zero, roundUnits_zero, ofRounded_of_lt _ (by decide +kernel)]
  case isFalse h => rfl

/-- The exact sum is its magnitude with that sign. -/
theorem units_sumSign (n m : Bool) (x : Int) : (F64.fin (sumSign n m x) x.natAbs).units = x := by
  rw [units_fin, sumSign]
  obtain hneg | rfl | hpos := lt_trichotomy x 0
  · rw [if_neg hneg.ne, decide_eq_true hneg, if_pos rfl]
    omega
  · simp
  · rw [if_neg hpos.ne', decide_eq_false hpos.not_gt, if_neg Bool.false_ne_true]
    omega

/-- A finite pattern's datum has the pattern's sign bit. -/
theorem f64_sign {b : Word} {n : Bool} {m : Nat} (h : f64 b = .fin n m) : b.getLsbD 63 = n := by
  simp only [f64] at h
  split_ifs at h <;> cases h <;> rfl

theorem exists_fin_of_isFinite {t : F64} (h : t.isFinite = true) : ∃ n m, t = .fin n m := by
  cases t with
  | nan => cases h
  | inf n => cases h
  | fin n m => exact ⟨n, m, rfl⟩

theorem gap_one (v x : Int) : gap 1 v x = (v - x).natAbs := by rw [gap, Nat.cast_one, one_mul]

/-- A sum is finite where it is below 2^1024 by more than half a last place; it is then nearest the exact sum. -/
theorem sum_of_isFinite {neg : Bool} {x : Int} (hx : (F64.fin neg x.natAbs).units = x) {r : F64}
    (hr : r = ofRounded neg (roundUnits x.natAbs 1)) (h : r.isFinite = true) :
    x.natAbs < overflowUnits - halfPlace ∧ ∃ c : Word, f64 c = r ∧
      ∀ d : Word, (f64 d).isFinite = true →
        (r.units - x).natAbs ≤ ((f64 d).units - x).natAbs ∧
        ((r.units - x).natAbs = ((f64 d).units - x).natAbs → (f64 d).units ≠ r.units → c.getLsbD 0 = false) := by
  rw [hr] at h ⊢
  have hlt := (ofRounded_isFinite neg _).mp h
  obtain ⟨hpack, hnear⟩ := ofRounded_nearest one_pos h
  simp only [hx, gap_one] at hnear
  exact ⟨not_le.mp (mt (roundUnits_overflows_iff _).mpr (not_le.mpr hlt)), _, hpack, hnear⟩

/-- A sum that is not finite is the infinity of its sign, from half a last place below 2^1024 on. -/
theorem sum_of_not_isFinite {n m : Bool} {x : Int} {r : F64}
    (hr : r = ofRounded (sumSign n m x) (roundUnits x.natAbs 1)) (h : r.isFinite = false) :
    overflowUnits - halfPlace ≤ x.natAbs ∧ r = .inf (decide (x < 0)) := by
  rw [hr] at h ⊢
  have hge : overflowUnits ≤ roundUnits x.natAbs 1 := by
    rw [← not_lt, ← ofRounded_isFinite (sumSign n m x), h]
    decide
  have hle := (roundUnits_overflows_iff _).mp hge
  have hpos : 0 < overflowUnits - halfPlace := by decide +kernel
  have hx : x ≠ 0 := by
    rintro rfl
    exact absurd (hpos.trans_le hle) (Nat.lt_irrefl 0)
  refine ⟨hle, ?_⟩
  rw [ofRounded_of_le _ hge, sumSign, if_neg hx]

/-- Settles O38. The sum is the rounding of the exact sum's magnitude, with its sign. -/
theorem additionRoundsToNearestEven : Obligations.AdditionRoundsToNearestEven := by
  intro a b ha hb
  obtain ⟨n, ma, hfa⟩ := exists_fin_of_isFinite ha
  obtain ⟨m, mb, hfb⟩ := exists_fin_of_isFinite hb
  have hthreshold : 2 ^ 2098 - 2 ^ 2044 = overflowUnits - halfPlace := by decide +kernel
  rw [hfa, hfb, f64_sign hfa, f64_sign hfb, hthreshold]
  intro x r
  have hr : r = ofRounded (sumSign n m x) (roundUnits x.natAbs 1) := addRNE64_fin n m ma mb
  refine ⟨sum_of_isFinite (units_sumSign n m x) hr, sum_of_not_isFinite hr, fun hzero => ?_⟩
  rw [hr, hzero, Int.natAbs_zero, roundUnits_zero, ofRounded_of_lt _ (by decide +kernel), sumSign, if_pos rfl]

/-- The exact value of a decimal literal `± digits / 10^places`, times `10^places`. -/
theorem units_literal (neg : Bool) (digits : Nat) :
    (F64.fin neg (digits * unitsPerOne)).units = (if neg then -1 else 1) * (digits * 2 ^ 1074 : Nat) := by
  have hone : 2 ^ 1074 = unitsPerOne := rfl
  rw [units_fin, hone]
  cases neg
  · rw [if_neg Bool.false_ne_true, if_neg Bool.false_ne_true, one_mul]
  · rw [if_pos rfl, if_pos rfl, neg_one_mul]

/-- Settles O58. LDF rounds its literal's numerator over `10^places`, and is one store. -/
theorem ldfWritesTheNearestPattern : Obligations.LdfWritesTheNearestPattern := by
  intro neg digits places h
  obtain ⟨hpack, hnear⟩ := ofRounded_nearest (Nat.pow_pos (by decide : 0 < 10)) h
  refine ⟨hpack, ?_, fun s => ⟨execAll_wrReg_operand .px _ s, execAll_wrReg_operand .py _ s,
    execAll_wrReg_operand .pz _ s⟩⟩
  simpa only [f64OfDecimal, gap, units_literal, Nat.cast_pow, Nat.cast_ofNat] using hnear

end Sys2Proof.Machine

/-! PROOF. The corner cases of the z scaler (41_datapath_primitives.md R85): from 2^54 on the binary64 values lie on a
grid that is more than twice as wide as the offset, so rounding absorbs it. -/

namespace Sys2Proof.Machine

/-- The step of the binary64 values from 2^54 on, which is 4, in units. -/
def gridStep : Nat := 2 ^ 1076

theorem gridStart_eq : 2 ^ 54 * 2 ^ 1074 = 2 ^ 52 * gridStep := by decide +kernel

/-- The offset as a datum, in units. -/
def c121Units : Nat := 5449355549118300 * stepAtOne

theorem c121_eq : c121 = .fin false c121Units := by decide +kernel

/-- Twice the offset is less than a step of the grid. -/
theorem c121Units_lt : 2 * c121Units < gridStep := by decide +kernel

/-- From 2^54 on a value stands on the grid. -/
theorem FitsSignificand.gridStep_dvd {m : Nat} (h : FitsSignificand m) (hm : 2 ^ 52 * gridStep ≤ m) :
    gridStep ∣ m := by
  have hstart : 2 ^ (52 + 1076) = 2 ^ 52 * gridStep := by decide +kernel
  exact (h.dvd_or_lt 1076).resolve_right (not_lt.mpr (hstart ▸ hm))

/-- Two multiples that are less than a step apart are the same. -/
theorem eq_of_dvd_of_lt_add {g a b : Nat} (ha : g ∣ a) (hb : g ∣ b) (hab : a < b + g) (hba : b < a + g) :
    a = b := by
  obtain ⟨i, rfl⟩ := ha
  obtain ⟨j, rfl⟩ := hb
  rw [← Nat.mul_succ] at hab hba
  have hij := Nat.lt_of_mul_lt_mul_left hab
  have hji := Nat.lt_of_mul_lt_mul_left hba
  rw [show i = j by omega]

/-- A multiple beyond another is beyond it by a step. -/
theorem add_le_of_dvd_of_lt {g a b : Nat} (ha : g ∣ a) (hb : g ∣ b) (h : a < b) : a + g ≤ b := by
  obtain ⟨i, rfl⟩ := ha
  obtain ⟨j, rfl⟩ := hb
  rw [← Nat.mul_succ]
  exact Nat.mul_le_mul_left g (Nat.lt_of_mul_lt_mul_left h)

/-- A value on the grid, moved by no more than the offset, is rounded back to itself. -/
theorem roundUnits_absorbs {m num : Nat} (hfits : FitsSignificand m) (hlo : m ≤ num + c121Units)
    (hhi : num ≤ m + c121Units) (hgrid : 2 ^ 52 * gridStep ≤ m) (hgrid' : 2 ^ 52 * gridStep ≤ roundUnits num 1) :
    roundUnits num 1 = m := by
  have hR := (roundUnits_fits num 1).gridStep_dvd hgrid'
  obtain ⟨hle, -⟩ := roundUnits_nearest_nat num one_pos hfits
  have hlt := c121Units_lt
  rw [gap_one, gap_one] at hle
  exact eq_of_dvd_of_lt_add hR (hfits.gridStep_dvd hgrid) (by omega) (by omega)

/-- The offset is absorbed where it moves a value away from zero. -/
theorem roundUnits_add_offset {m : Nat} (hfits : FitsSignificand m) (hgrid : 2 ^ 52 * gridStep ≤ m) :
    roundUnits (m + c121Units) 1 = m := by
  obtain ⟨hle, -⟩ := roundUnits_nearest_nat (m + c121Units) one_pos hfits
  rw [gap_one, gap_one] at hle
  exact roundUnits_absorbs hfits (by omega) le_rfl hgrid (by omega)

/-- The offset is absorbed where it moves a value toward zero, but for the first value of the grid. -/
theorem roundUnits_sub_offset {m : Nat} (hfits : FitsSignificand m) (hgrid : 2 ^ 52 * gridStep < m) :
    roundUnits (m - c121Units) 1 = m := by
  obtain ⟨hle, -⟩ := roundUnits_nearest_nat (m - c121Units) one_pos hfits
  have hlt := c121Units_lt
  have hnext : 2 ^ 52 * gridStep + gridStep ≤ m :=
    add_le_of_dvd_of_lt (Nat.dvd_mul_left _ _) (hfits.gridStep_dvd hgrid.le) hgrid
  rw [gap_one, gap_one] at hle
  exact roundUnits_absorbs hfits (by omega) (by omega) hgrid.le (by omega)

/-- A pattern's finite value is below 2^1024 (R83). -/
theorem f64_lt_overflowUnits {b : Word} {n : Bool} {m : Nat} (h : f64 b = .fin n m) : m < overflowUnits := by
  have hfrac : (b.extractLsb' 0 52).toNat < 2 ^ 52 := BitVec.isLt _
  have hexpo : (b.extractLsb' 52 11).toNat < 2 ^ 11 := BitVec.isLt _
  simp only [f64] at h
  generalize (b.extractLsb' 52 11).toNat = expo, (b.extractLsb' 0 52).toNat = frac at *
  split_ifs at h <;> cases h
  · exact hfrac.trans (by decide +kernel)
  · calc (2 ^ 52 + frac) * 2 ^ (expo - 1) < 2 ^ 53 * 2 ^ (expo - 1) :=
          Nat.mul_lt_mul_of_pos_right (by omega) (Nat.two_pow_pos _)
      _ ≤ 2 ^ 53 * 2 ^ 2045 := Nat.mul_le_mul_left _ (Nat.pow_le_pow_right (by decide) (by omega))
      _ = overflowUnits := by decide +kernel

/-- The scaler rounds a sum of magnitudes above zero. -/
theorem scaleZ_fin_false {m : Nat} (h : 0 < m) :
    scaleZ (.fin false m) = ofRounded false (roundUnits (m + c121Units) 1) := by
  have hsum : (F64.fin false m).units + (F64.fin false c121Units).units = (m + c121Units : Nat) := rfl
  have hpos : ¬((m + c121Units : Nat) : Int) < 0 := by omega
  have hne : ((m + c121Units : Nat) : Int) ≠ 0 := by omega
  rw [scaleZ, c121_eq, addRNE64_fin, hsum, sumSign, if_neg hne, decide_eq_false hpos, Int.natAbs_natCast]

/-- The scaler rounds a difference of magnitudes below zero. -/
theorem scaleZ_fin_true {m : Nat} (h : c121Units < m) :
    scaleZ (.fin true m) = ofRounded true (roundUnits (m - c121Units) 1) := by
  have hsum : (F64.fin true m).units + (F64.fin false c121Units).units = -(m - c121Units : Nat) := by
    rw [units_fin, units_fin, if_pos rfl, if_neg Bool.false_ne_true]
    omega
  have hneg : (-((m - c121Units : Nat) : Int)) < 0 := by omega
  rw [scaleZ, c121_eq, addRNE64_fin, hsum, sumSign, if_neg hneg.ne, decide_eq_true hneg, Int.natAbs_neg,
    Int.natAbs_natCast]

/-- From 2^54 on the offset is absorbed, but for -2^54 (R85). -/
theorem scaleZ_absorbs {b : Word} {n : Bool} {m : Nat} (hb : f64 b = .fin n m) (hge : 2 ^ 52 * gridStep ≤ m)
    (hne : n = true → m ≠ 2 ^ 52 * gridStep) : scaleZ (.fin n m) = .fin n m := by
  have hfits := f64_fits hb
  have hlt := f64_lt_overflowUnits hb
  have hoffset := c121Units_lt
  have hpos : 0 < gridStep := by decide +kernel
  cases n with
  | false =>
    rw [scaleZ_fin_false (by omega), roundUnits_add_offset hfits hge, ofRounded_of_lt _ hlt]
  | true =>
    have hgt : 2 ^ 52 * gridStep < m := lt_of_le_of_ne hge (hne rfl).symm
    rw [scaleZ_fin_true (by omega), roundUnits_sub_offset hfits hgt, ofRounded_of_lt _ hlt]

theorem gridStart_cast : (2 ^ 54 * 2 ^ 1074 : Int) = (2 ^ 52 * gridStep : Nat) := by decide +kernel

/-- A datum with a negative value is finite and known from that value. -/
theorem eq_fin_of_units_neg {t : F64} {k : Nat} (hk : 0 < k) (h : t.units = -(k : Int)) : t = .fin true k := by
  cases t with
  | nan =>
    have h0 : (0 : Int) = -k := h
    omega
  | inf n =>
    have h0 : (0 : Int) = -k := h
    omega
  | fin n m =>
    cases n with
    | false =>
      have hm : (m : Int) = -k := h
      omega
    | true =>
      have hm : -(m : Int) = -k := h
      rw [show m = k by omega]

/-- Settles O39. The clauses on single data are evaluated; from 2^54 on the offset is absorbed. -/
theorem zScalerCornerCases : Obligations.ZScalerCornerCases := by
  refine ⟨fun _ => rfl, by decide +kernel, by decide +kernel, by decide +kernel, rfl, fun n => ?_,
    fun b hb hge hne => ?_, fun b hb => ?_, by decide +kernel⟩
  · rw [scaleZ, c121_eq]
    rfl
  · obtain ⟨n, m, hfb⟩ := exists_fin_of_isFinite hb
    rw [hfb, gridStart_eq, natAbs_units] at hge
    rw [hfb, gridStart_cast] at hne
    rw [hfb]
    refine scaleZ_absorbs hfb hge fun hn hm => hne ?_
    rw [hn, hm]
    rfl
  · have hpos : 0 < 2 ^ 52 * gridStep := by decide +kernel
    rw [gridStart_cast] at hb
    rw [eq_fin_of_units_neg hpos hb]
    decide +kernel

end Sys2Proof.Machine
